-- ==== Sys2Proof/Word.lean ====
section
/-! DEFINITION. The two value types of the block: the 32-bit word and the byte (00_scope.md R6). -/

namespace Sys2Proof

/-- A word: 32 bits, no sign; `+` on it is the spec's `+32`, `^^^` its `^` (R6). -/
abbrev Word := BitVec 32

/-- A byte: 8 bits (R6). -/
abbrev Byte := BitVec 8

end Sys2Proof
end

