-- ==== Sys2Proof/Syntax.lean ====
section
/-! DEFINITION. The seven commands, one constructor per row of spec/opcode_table.json (30_encoding.md
R73). A format L command carries its length operand as the unsigned integer it stands for (R72). -/

namespace Sys2Proof

inductive Instr where
  /-- INIT: start a stream from `KEY`, `NONCE`, `CTR0` (R106). -/
  | init
  /-- NEXT_BLOCK: generate one keystream block (R107). -/
  | nextBlock
  /-- XOR_STREAM `n`: XOR `n` bytes of `FB` with the keystream (R121). -/
  | xorStream (n : Nat)
  /-- DERIVE `len`: normalise the password to a key (R91). -/
  | derive (len : Nat)
  /-- SEAL `len`: vault record to file image (R135). -/
  | sealVault (len : Nat)
  /-- OPEN `len`: file image to vault record (R136). -/
  | openVault (len : Nat)
  /-- VALIDATE: the entry count check on `VM` (R137). -/
  | validate
  deriving DecidableEq, Repr

end Sys2Proof
end

