-- ==== Sys2Proof/WellFormed.lean ====
section
/-! DEFINITION. Which terms of `Instr` are commands of the block: a length operand fits the 24-bit
field (30_encoding.md R71, R72; DESIGN CHOICE, log entry 11). -/

namespace Sys2Proof

/-- A length operand is `0 .. 2^24 - 1` (R71). -/
def lengthFits (n : Nat) : Bool := decide (n < 2 ^ 24)

def Instr.wellFormed : Instr → Bool
  | .init => true
  | .nextBlock => true
  | .xorStream n => lengthFits n
  | .derive len => lengthFits len
  | .sealVault len => lengthFits len
  | .openVault len => lengthFits len
  | .validate => true

end Sys2Proof
end

