-- ==== Sys2Proof/Decode.lean ====
section
/-! DEFINITION. The command word (30_encoding.md R70 to R75): fields, the total decoder, the encoder,
and the opcode map as match and mask rows. -/

namespace Sys2Proof

/-- `op`, bits `[7:0]` of a command word (R70). -/
def opField (w : Word) : Byte := w.extractLsb' 0 8

/-- `imm`, bits `[31:8]` of a command word (R70). -/
def immField (w : Word) : BitVec 24 := w.extractLsb' 8 24

/-- Why a word is no command (R74). -/
inductive IllegalWord where
  /-- `op` is none of the seven assigned opcodes. -/
  | unassignedOp
  /-- Format Z with `imm` not zero. -/
  | immNotZero
  deriving DecidableEq, Repr

/-- The decoder's answer: one command, or illegal (R75). -/
inductive Decoded where
  | command (i : Instr)
  | illegal (why : IllegalWord)
  deriving DecidableEq, Repr

/-- Format Z: `imm` must be 0 (R71). -/
def formatZ (imm : Nat) (i : Instr) : Decoded :=
  if imm = 0 then .command i else .illegal .immNotZero

/-- The decoder, total on all words (R73, R74, R75). -/
def decode (w : Word) : Decoded :=
  let imm := (immField w).toNat
  match (opField w).toNat with
  | 0x01 => formatZ imm .init
  | 0x02 => formatZ imm .nextBlock
  | 0x03 => .command (.xorStream imm)
  | 0x10 => .command (.derive imm)
  | 0x20 => .command (.sealVault imm)
  | 0x21 => .command (.openVault imm)
  | 0x22 => formatZ imm .validate
  | _ => .illegal .unassignedOp

/-- Format L: the length in bits `[31:8]` above the opcode (R70, R77). -/
def formatL (n op : Nat) : Word := (BitVec.ofNat 32 n <<< 8) ||| BitVec.ofNat 32 op

/-- The command word of a well-formed command (R73, R77). -/
def encode : Instr → Word
  | .init => 0x00000001
  | .nextBlock => 0x00000002
  | .xorStream n => formatL n 0x03
  | .derive len => formatL len 0x10
  | .sealVault len => formatL len 0x20
  | .openVault len => formatL len 0x21
  | .validate => 0x00000022

/-- One row of the opcode map (R73). -/
structure OpcodeRow where
  mnemonic : String
  matchBits : Word
  maskBits : Word
  deriving DecidableEq, Repr

/-- The opcode map as R73 prints it. -/
def opcodeMap : List OpcodeRow :=
  [ ⟨"INIT",       0x00000001, 0xFFFFFFFF⟩,
    ⟨"NEXT_BLOCK", 0x00000002, 0xFFFFFFFF⟩,
    ⟨"XOR_STREAM", 0x00000003, 0x000000FF⟩,
    ⟨"DERIVE",     0x00000010, 0x000000FF⟩,
    ⟨"SEAL",       0x00000020, 0x000000FF⟩,
    ⟨"OPEN",       0x00000021, 0x000000FF⟩,
    ⟨"VALIDATE",   0x00000022, 0xFFFFFFFF⟩ ]

/-- A word selects a row exactly when `w & mask = match` (R73). -/
def OpcodeRow.selects (r : OpcodeRow) (w : Word) : Bool := w &&& r.maskBits == r.matchBits

/-- The mnemonic of a command (R73). -/
def Instr.mnemonic : Instr → String
  | .init => "INIT"
  | .nextBlock => "NEXT_BLOCK"
  | .xorStream _ => "XOR_STREAM"
  | .derive _ => "DERIVE"
  | .sealVault _ => "SEAL"
  | .openVault _ => "OPEN"
  | .validate => "VALIDATE"

/-- The command the decoder reads, `none` where the word is illegal. -/
def decodeCommand? (w : Word) : Option Instr :=
  match decode w with
  | .command i => some i
  | .illegal _ => none

/-- The command word the opcode table's numbering gives: bit 0 of `w` is bit 0 of the word, and bits
at and above `nbits` are 0. A command is a 32-bit value, so no byte order enters (20_memory.md R41; DEDUCED,
log entry 10). -/
def tableWord (nbits w : Nat) : Word := BitVec.ofNat 32 (w % 2 ^ nbits)

/-- The host's question: the command the decoder reads from a row's word. -/
def decodeTableWord (nbits w : Nat) : Option Instr := decodeCommand? (tableWord nbits w)

end Sys2Proof
end

