-- ==== Sys2Proof/Config.lean ====
section
/-! DEFINITION. What the implementation fixes (`PAD`) and the free values the spec leaves open: the
answers of the entropy source. (The free contents after a reset are functions of the state before it, so they
stand beside State, in Machine/State.lean.) -/

namespace Sys2Proof

/-- The open parameter of the block (00_scope.md R5, 92_eei_decisions.md D14). The bound is R5's
`FILE_SIZE < 2^16`, since `FILE_SIZE = 12 + 4 + PAD + 25600`. DESIGN CHOICE: it is carried in the
state, where no step changes it (log entry 4; safe). -/
structure Config where
  PAD : Fin 39920
  deriving DecidableEq, Repr

/-- The byte buffers of the block (00_scope.md R7). -/
inductive Buffer where
  | KS | KEY | NONCE | PW | VM | FB
  deriving DecidableEq, Repr

namespace Config

/-- FREE VALUE: the answer of the entropy source to its `k`-th request where no answer has been fixed
beforehand: 12 bytes under no law, or `none` for `fail` (20_memory.md R50, 93_implementation_defined.md
U9; DESIGN CHOICE, log entry 5; safe for a claim about one run). -/
opaque entropyAnswer : Nat → Option (Vector Byte 12)

end Config
end Sys2Proof
end

