-- ==== Sys2Proof/Machine/State.lean ====
section
/-! DEFINITION. The architectural state of the block (10_state.md R10), beside it the environment the
step reads (the host's pending transactions, the entropy answers), and the state after reset (R32). -/

namespace Sys2Proof.Machine

/-- The contents of one of the two large buffers by index: a list of cells in the canonical form
`Memory.wf` (Machine/Ops.lean). -/
abbrev Memory := List Host.Cell

/-- One thing the outside does to the block: a bus transaction of the host (20_memory.md R41; the
16-bit ones exist only to be bus errors, R43, log entry 9), or the platform's reset (70_reset_and_hazards.md R190). -/
inductive HostEvent where
  | read8 (a : Nat)
  | read16 (a : Nat)
  | read32 (a : Nat)
  | write8 (a : Nat) (v : Byte)
  | write16 (a : Nat) (v : BitVec 16)
  | write32 (a : Nat) (v : Word)
  | reset
  deriving DecidableEq, Repr

/-- What the most recent completed transaction delivered to the host (R41). -/
inductive BusResponse where
  /-- No transaction has completed yet. -/
  | none
  /-- A write completed. -/
  | written
  /-- A byte read delivered `v`. -/
  | value8 (v : Byte)
  /-- A word read delivered `v`. -/
  | value32 (v : Word)
  deriving DecidableEq, Repr

/-- The answer to one `EntropyRequest()` (20_memory.md R50), or its absence (70_reset_and_hazards.md
R195). -/
inductive EntropyAnswer where
  /-- `ok(e)`: exactly 12 bytes. -/
  | ok (e : Vector Byte 12)
  /-- `fail`: unavailable, or a short delivery. -/
  | fail
  /-- The source never answers this request. -/
  | noAnswer
  deriving DecidableEq, Repr

/-- The result codes of the block and of the host (60_exceptions.md R160). -/
inductive ResultCode where
  | ok
  | entropyError
  | ioOpenError
  | ioReadError
  | ioWriteError
  | corruptOrWrongPasswordError
  | capacityError
  | illegalCommand
  | sequenceError
  | rangeError
  deriving DecidableEq, Repr

/-- The three logical states of the engine (10_state.md R15). -/
inductive Phase where
  | uninitialized | ready | streaming
  deriving DecidableEq, Repr

structure State where
  /-- CipherState, sixteen words (R11, R12). -/
  S : Vector Word 16
  /-- The current keystream block (R13). -/
  KS : Vector Byte 64
  /-- The cursor, held in 7 bits (R14). -/
  POS : BitVec 7
  /-- 0 in Uninitialized, 1 otherwise (R15). -/
  INITED : Bool
  /-- DerivedKey (R17). -/
  KEY : Vector Byte 32
  /-- Nonce (R18). -/
  NONCE : Vector Byte 12
  /-- The first bytes of the MasterPassword (R19). -/
  PW : Vector Byte 32
  /-- The vault record, by index `0 .. VAULT_SIZE-1` (R20, R131). -/
  VM : Memory
  /-- The file image, by index `0 .. FILE_SIZE-1` (R21, R132). -/
  FB : Memory
  /-- The counter INIT loads (R22). -/
  CTR0 : Word
  /-- The start offset of XOR_STREAM in `FB` (R23). -/
  DPTR : Word
  /-- The count of valid bytes of `FB` (R24). -/
  FLEN : Word
  /-- The result code of the most recent command (R25). -/
  RESULT : Word
  /-- The MODEL's own: the parameter of this block, never changed by a step (R5, R31). -/
  config : Config
  /-- The MODEL's own: what the outside does next, oldest first (R47). -/
  bus : List HostEvent
  /-- The MODEL's own: what the last completed transaction delivered (R41). -/
  response : BusResponse
  /-- The MODEL's own: the entropy answers already fixed, oldest first (R31, R50). -/
  entropy : List EntropyAnswer
  /-- The MODEL's own: how many entropy answers have been taken. -/
  entropyDraws : Nat
  /-- The MODEL's own: how many resets have been applied since `State.reset`, so that no two resets of a run
  need leave the same free contents (log entry 3). -/
  resets : Nat
  deriving DecidableEq, Repr

end Sys2Proof.Machine

namespace Sys2Proof.Config
open Sys2Proof.Machine

/-- FREE VALUE: word `S[i]` after a reset in the state `before` (10_state.md R32, 93_implementation_defined.md
U1). It may depend on everything before the reset, the old contents and the count `resets` among them: reset is
not said to erase anything (70_reset_and_hazards.md R190, 91_not_in_source.md N4). DESIGN CHOICE, log entry 3;
safe for the contents. -/
opaque resetWord : (before : State) → (i : Nat) → Word

/-- FREE VALUE: byte `i` of a buffer after a reset in the state `before`, in the same way (R32, U1, R190, N4).
DESIGN CHOICE, log entry 3; safe for the contents. -/
opaque resetByte : (before : State) → Buffer → (i : Nat) → Byte

end Sys2Proof.Config

namespace Sys2Proof.Machine

/-- Reasons for which the machine has no next state. -/
inductive Fault where
  /-- Raised by SEAL when the entropy source never answers: the command hangs, a stuck state
  (70_reset_and_hazards.md R195, 93_implementation_defined.md U10). Safe: no next state is claimed. -/
  | entropyNeverAnswers
  deriving DecidableEq, Repr

/-- Reasons for which a step is refused. -/
inductive Refusal where
  /-- An instruction without a meaning yet; no arm of this model answers it. Safe. -/
  | notModelled (mnemonic : String)
  /-- Raised by the bus when a host transaction is a bus error (20_memory.md R53: "For a model: the host
  step is refused"). Safe: the run ends there, where the hardware leaves the block unchanged. -/
  | busError
  deriving DecidableEq, Repr

/-- One step's outcome. -/
abbrev Outcome := Host.Outcome State Fault Refusal

/-- The state right after reset (R32), at the default `PAD = 0`. `INITED`, `POS`, `RESULT`, `CTR0`,
`DPTR`, `FLEN` are the spec's; the contents R32 leaves unspecified are zero here (DESIGN CHOICE, log
entries 1 and 2; unsafe), and the model's own fields start empty. -/
def State.reset : State where
  S := Vector.replicate 16 0
  KS := Vector.replicate 64 0
  POS := 64
  INITED := false
  KEY := Vector.replicate 32 0
  NONCE := Vector.replicate 12 0
  PW := Vector.replicate 32 0
  VM := []
  FB := []
  CTR0 := 0
  DPTR := 0
  FLEN := 0
  RESULT := 0
  config := { PAD := 0 }
  bus := []
  response := .none
  entropy := []
  entropyDraws := 0
  resets := 0

end Sys2Proof.Machine
end

