-- ==== Sys2Proof/Machine/Ops.lean ====
section
/-! DEFINITION. The named operations every command is written with: the sizes that follow from `PAD`
(00_scope.md R5), reading and writing the two large buffers (R7), ending a command with a code
(`raise` and `done`, R7, 60_exceptions.md R160, R163), and the entropy request (20_memory.md R50). -/

namespace Sys2Proof.Machine

/-! ## Sizes and layouts -/

/-- `VAULT_SIZE = 4 + PAD + 25600` (R5). -/
def vaultSize (c : Config) : Nat := 4 + 25600 + c.PAD.val

/-- `FILE_SIZE = 12 + VAULT_SIZE` (R5). -/
def fileSize (c : Config) : Nat := 12 + vaultSize c

/-- Offset in the vault record of entry `i` (43_vault_codec.md R131). -/
def entryOffset (c : Config) (i : Nat) : Nat := 4 + c.PAD.val + 256 * i

/-- Offset in the vault record of field `f` of entry `i`: 0 name, 1 platform, 2 user, 3 password
(R130, R131). -/
def fieldOffset (c : Config) (i f : Nat) : Nat := entryOffset c i + 64 * f

/-- Offset in the file image of the ciphertext, after the 12 nonce bytes (R132). -/
def cipherOffset : Nat := 12

/-! ## The large buffers -/

namespace Memory

/-- What a byte that nothing has written reads as. 10_state.md R32 leaves it unspecified; DESIGN
CHOICE 0 (log entry 2; unsafe). -/
def unlisted : Byte := 0

/-- The canonical form: indices strictly rising, no cell equal to what an unlisted byte reads as. -/
abbrev wf (m : Memory) : Prop :=
  m.Pairwise (fun c d => c.1 < d.1) ∧ ∀ c ∈ m, c.2 ≠ unlisted

/-- Every listed index lies inside a buffer of `size` bytes. -/
abbrev within (m : Memory) (size : Nat) : Prop := ∀ c ∈ m, c.1 < size

/-- `X[i]` (R7). -/
def read : Memory → Nat → Byte
  | [], _ => unlisted
  | (b, u) :: m, i => if b = i then u else read m i

/-- `X[i] <- v` (R7), keeping the canonical form. -/
def write : Memory → Nat → Byte → Memory
  | [], i, v => if v = unlisted then [] else [(i, v)]
  | (b, u) :: m, i, v =>
    if b < i then (b, u) :: write m i v
    else if b = i then (if v = unlisted then m else (i, v) :: m)
    else (if v = unlisted then (b, u) :: m else (i, v) :: (b, u) :: m)

/-- `X[a .. a+n-1] <- f 0 ‖ … ‖ f (n-1)`, byte by byte in increasing index order (R7). -/
def writeRun (m : Memory) (a : Nat) : Nat → (Nat → Byte) → Memory
  | 0, _ => m
  | n + 1, f => write (writeRun m a n f) (a + n) (f n)

end Memory

/-- Byte `i` of a small buffer. Every use is at an index inside the buffer (DEDUCED, log entry 16). -/
def byteAt {n : Nat} (v : Vector Byte n) (i : Nat) : Byte := v[i]?.getD 0

/-- Word `S[i]`. Every use is at an index inside `0 .. 15` (DEDUCED, log entry 16). -/
def wordAt (v : Vector Word 16) (i : Nat) : Word := v[i]?.getD 0

/-- `X[i] <- v` for a small buffer (DEDUCED, log entry 16). -/
def setByteAt {n : Nat} (v : Vector Byte n) (i : Nat) (b : Byte) : Vector Byte n := v.setIfInBounds i b

/-! ## Ending a command -/

/-- The numbers of R160. -/
def ResultCode.code : ResultCode → Word
  | .ok => 0x00
  | .entropyError => 0x01
  | .ioOpenError => 0x02
  | .ioReadError => 0x03
  | .ioWriteError => 0x04
  | .corruptOrWrongPasswordError => 0x05
  | .capacityError => 0x06
  | .illegalCommand => 0x80
  | .sequenceError => 0x81
  | .rangeError => 0x82

/-- `raise E`: the code goes to `RESULT` and the command ends; nothing is saved and nothing is
redirected (R7, R163). This is the block's whole "trap entry"; it has no return (R164). -/
def raise (e : ResultCode) (s : State) : State := { s with RESULT := e.code }

/-- `done`: the command ends with OK (R7). -/
def done (s : State) : State := { s with RESULT := ResultCode.ok.code }

/-! ## The entropy source -/

/-- The next request is one that the source never answers (70_reset_and_hazards.md R195). -/
def entropyHangs (s : State) : Bool :=
  match s.entropy with
  | .noAnswer :: _ => true
  | _ => false

/-- The answer to the next request: the one fixed beforehand, else the free value; `none` is `fail`
(20_memory.md R50). -/
def entropyReply (s : State) : Option (Vector Byte 12) :=
  match s.entropy with
  | [] => Config.entropyAnswer s.entropyDraws
  | .ok e :: _ => some e
  | _ :: _ => none

/-- The environment after one answered request: that answer is used up. -/
def takeEntropy (s : State) : State :=
  { s with entropy := s.entropy.tail, entropyDraws := s.entropyDraws + 1 }

end Sys2Proof.Machine
end

