-- ==== Sys2Proof/Machine/Operands.lean ====
section
/-! DEFINITION. Operand assembly: little-endian packing (00_scope.md R6, 20_memory.md R42), the key and
nonce words of INIT (41_chacha20_engine.md R106), the password operand (40_key_derivation.md R90), the
buffer range of XOR_STREAM (42_xor_stream.md R121). -/

namespace Sys2Proof.Machine

/-- `LE32(b0, b1, b2, b3)`: the word whose least significant byte is `b0` (R6). -/
@[irreducible] def le32 (b0 b1 b2 b3 : Byte) : Word := b3 ++ b2 ++ b1 ++ b0

/-- `BYTES_LE(w)`: the four bytes of `w`, least significant first (R6). -/
def bytesLE (w : Word) : Vector Byte 4 :=
  #v[w.extractLsb' 0 8, w.extractLsb' 8 8, w.extractLsb' 16 8, w.extractLsb' 24 8]

/-- Key word `i` in `0..7`: `LE32(KEY[4i], …, KEY[4i+3])` (R106). -/
@[irreducible] def keyWord (key : Vector Byte 32) (i : Nat) : Word :=
  le32 (byteAt key (4 * i)) (byteAt key (4 * i + 1)) (byteAt key (4 * i + 2)) (byteAt key (4 * i + 3))

/-- Nonce word `i` in `0..2`: `LE32(NONCE[4i], …, NONCE[4i+3])` (R106). -/
@[irreducible] def nonceWord (nonce : Vector Byte 12) (i : Nat) : Word :=
  le32 (byteAt nonce (4 * i)) (byteAt nonce (4 * i + 1)) (byteAt nonce (4 * i + 2))
    (byteAt nonce (4 * i + 3))

/-- `derive(p, len)`: truncate or zero-pad the password to 32 bytes (R90). -/
@[irreducible] def derive (p : Vector Byte 32) (len : Nat) : Vector Byte 32 :=
  Vector.ofFn fun i => if i.val < min len 32 then p[i] else 0

/-- The range `FB[DPTR .. DPTR+n-1]` lies within `FB`; the sum is unbounded and does not wrap
(R23, R121). -/
def rangeInFB (s : State) (n : Nat) : Bool := decide (s.DPTR.toNat + n ≤ fileSize s.config)

end Sys2Proof.Machine
end

