-- ==== Sys2Proof/Machine/KeyDerivation.lean ====
section
/-! DEFINITION. Key derivation (40_key_derivation.md): DERIVE and the step SEAL and OPEN share. -/

namespace Sys2Proof.Machine

/-- `KEY[0..31] <- derive(PW[0..31], len)` (R91, R92). -/
def deriveKey (len : Nat) (s : State) : State := { s with KEY := derive s.PW len }

/-- DERIVE `len` (R91). -/
def execDerive (len : Nat) (s : State) : Outcome := .next (done (deriveKey len s))

end Sys2Proof.Machine
end

