-- ==== Sys2Proof/Machine/Flags.lean ====
section
/-! DEFINITION. The block has no condition codes (10_state.md R29). What it computes of that kind is here:
the phase (R15), the `STATUS` word (R26), and the entry count predicate (43_vault_codec.md R133). -/

namespace Sys2Proof.Machine

/-- `PHASE`, a function of `INITED` and `POS` (R15; a cursor above 64 never occurs, log entry 15). -/
def phase (s : State) : Phase :=
  if s.INITED = false then .uninitialized
  else if s.POS.toNat < 64 then .streaming else .ready

/-- The number of a phase in `STATUS[1:0]` (R15). -/
def Phase.number : Phase → BitVec 2
  | .uninitialized => 0
  | .ready => 1
  | .streaming => 2

/-- A read of `STATUS`: zero, `POS` in `[14:8]`, zero, `PHASE` in `[1:0]` (R26). -/
def statusWord (s : State) : Word := 0#17 ++ s.POS ++ 0#6 ++ (phase s).number

/-- `count_of`: `LE32` read as a two's-complement integer (R133). -/
def countOf (b0 b1 b2 b3 : Byte) : Int := (le32 b0 b1 b2 b3).toInt

/-- `valid_count`: `0 <= count <= 100` (R133). -/
def validCount (b0 b1 b2 b3 : Byte) : Bool :=
  decide (0 ≤ countOf b0 b1 b2 b3 ∧ countOf b0 b1 b2 b3 ≤ 100)

/-- `valid_count` of the four bytes of a large buffer from index `a`. -/
def validCountAt (m : Memory) (a : Nat) : Bool :=
  validCount (m.read a) (m.read (a + 1)) (m.read (a + 2)) (m.read (a + 3))

end Sys2Proof.Machine
end

