-- ==== Sys2Proof/Machine/Engine.lean ====
section
/-! DEFINITION. The ChaCha20 engine (41_chacha20_engine.md): quarter-round, double-round, block function,
counter advance, and the meanings of INIT and NEXT_BLOCK. -/

namespace Sys2Proof.Machine

/-- `rotl32(x, n)`, the left rotation by a constant (00_scope.md R6). -/
def rotl32 (x : Word) (n : Nat) : Word := (x <<< n) ||| (x >>> (32 - n))

/-- Four words `(a, b, c, d)`, the operands and results of a quarter-round. -/
abbrev Quad := Word × Word × Word × Word

/-- `QR(a, b, c, d)` step by step (R102). -/
@[irreducible] def quarterRound : Quad → Quad
  | (a, b, c, d) =>
    let a1 := a + b
    let d1 := rotl32 (d ^^^ a1) 16
    let c1 := c + d1
    let b1 := rotl32 (b ^^^ c1) 12
    let a2 := a1 + b1
    let d2 := rotl32 (d1 ^^^ a2) 8
    let c2 := c1 + d2
    let b2 := rotl32 (b1 ^^^ c2) 7
    (a2, b2, c2, d2)

/-- `QR_at(w, i, j, k, l)`: the quarter-round on four places of the array (R102). -/
def qrAt (w : Vector Word 16) (i j k l : Fin 16) : Vector Word 16 :=
  let r := quarterRound (w[i], w[j], w[k], w[l])
  (((w.set i r.1).set j r.2.1).set k r.2.2.1).set l r.2.2.2

/-- The four column quarter-rounds (R103). -/
def columnRound (w : Vector Word 16) : Vector Word 16 :=
  qrAt (qrAt (qrAt (qrAt w 0 4 8 12) 1 5 9 13) 2 6 10 14) 3 7 11 15

/-- The four diagonal quarter-rounds (R103). -/
def diagonalRound (w : Vector Word 16) : Vector Word 16 :=
  qrAt (qrAt (qrAt (qrAt w 0 5 10 15) 1 6 11 12) 2 7 8 13) 3 4 9 14

/-- `DOUBLE_ROUND(w)` (R103). -/
def doubleRound (w : Vector Word 16) : Vector Word 16 := diagonalRound (columnRound w)

/-- `n` double-rounds, one after another. -/
def doubleRounds : Nat → Vector Word 16 → Vector Word 16
  | 0, w => w
  | n + 1, w => doubleRounds n (doubleRound w)

/-- The working buffer after the ten double-rounds and the feed-forward addition (R104). -/
def blockWords (s : Vector Word 16) : Vector Word 16 :=
  let w := doubleRounds 10 s
  Vector.ofFn fun i : Fin 16 => w[i] + s[i]

/-- `BLOCK(s)`: the sixteen words serialised little-endian into 64 bytes (R104). -/
@[irreducible] def block (s : Vector Word 16) : Vector Byte 64 :=
  let w := blockWords s
  Vector.ofFn fun p : Fin 64 => byteAt (bytesLE (wordAt w (p.val / 4))) (p.val % 4)

/-- `ADVANCE` on the words: `S[12]` steps, and `S[13]` takes the carry when it wraps to 0 (R105). -/
@[irreducible] def advance (s : Vector Word 16) : Vector Word 16 :=
  let s' := s.set 12 (s[12] + 1)
  if s'[12] = 0 then s'.set 13 (s'[13] + 1) else s'

/-- The constant words `expand 32-byte k` (R101). -/
def C0 : Word := 0x61707865
def C1 : Word := 0x3320646E
def C2 : Word := 0x79622D32
def C3 : Word := 0x6B206574

/-- Word `i` that `init` loads: constants, key words, counter, nonce words (R106). -/
def initWord (key : Vector Byte 32) (nonce : Vector Byte 12) (counter : Word) (i : Nat) : Word :=
  if i = 0 then C0
  else if i = 1 then C1
  else if i = 2 then C2
  else if i = 3 then C3
  else if i < 12 then keyWord key (i - 4)
  else if i = 12 then counter
  else nonceWord nonce (i - 13)

/-- The sixteen words `init` loads (R106). -/
@[irreducible] def initWords (key : Vector Byte 32) (nonce : Vector Byte 12) (counter : Word) :
    Vector Word 16 :=
  Vector.ofFn fun i : Fin 16 => initWord key nonce counter i.val

/-- `init` with a counter: used by INIT with `CTR0`, by SEAL and OPEN with 0 (R106, R135, R136). -/
def initEngine (counter : Word) (s : State) : State :=
  { s with S := initWords s.KEY s.NONCE counter, POS := 64, INITED := true }

/-- The state that block generation and the stream datapath read and write, and all of it (R108,
42_xor_stream.md R120). -/
structure Datapath where
  S : Vector Word 16
  KS : Vector Byte 64
  POS : BitVec 7
  FB : Memory
  deriving DecidableEq, Repr

/-- The datapath's part of the state. -/
def datapathOf (s : State) : Datapath := { S := s.S, KS := s.KS, POS := s.POS, FB := s.FB }

/-- The state with the datapath's part replaced. -/
def setDatapath (x : Datapath) (s : State) : State :=
  { s with S := x.S, KS := x.KS, POS := x.POS, FB := x.FB }

/-- `GENERATE`: the block of the counter before the advance, then the advance (R108). -/
def generate (x : Datapath) : Datapath :=
  { x with KS := block x.S, S := advance x.S }

/-- INIT (R106). -/
def execInit (s : State) : Outcome := .next (done (initEngine s.CTR0 s))

/-- NEXT_BLOCK (R107). -/
def execNextBlock (s : State) : Outcome :=
  .next (if s.INITED then done (setDatapath (generate (datapathOf s)) s)
    else raise .sequenceError s)

end Sys2Proof.Machine
end

