-- ==== Sys2Proof/Machine/Stream.lean ====
section
/-! DEFINITION. The stream XOR datapath (42_xor_stream.md): the per-byte step and XOR_STREAM. -/

namespace Sys2Proof.Machine

/-- The lazy regeneration before a byte: at `POS >= 64` generate a block and restart at 0 (R120). -/
def refill (x : Datapath) : Datapath :=
  if 64 ≤ x.POS.toNat then { generate x with POS := 0 } else x

/-- One turn of R120's loop on byte `FB[a]`. -/
def xorByte (a : Nat) (x : Datapath) : Datapath :=
  let x := refill x
  { x with
    FB := x.FB.write a (x.FB.read a ^^^ byteAt x.KS x.POS.toNat)
    POS := x.POS + 1 }

/-- `XOR_BYTES(off, n)`: the bytes `FB[off .. off+n-1]` in increasing order (R120). -/
def xorBytes (off : Nat) : Nat → Datapath → Datapath
  | 0, x => x
  | n + 1, x => xorByte (off + n) (xorBytes off n x)

/-- XOR_STREAM `n` (R121): the state check, the range check, then the bytes. -/
def execXorStream (n : Nat) (s : State) : Outcome :=
  .next (if s.INITED = false then raise .sequenceError s
    else if rangeInFB s n = false then raise .rangeError s
    else done (setDatapath (xorBytes s.DPTR.toNat n (datapathOf s)) s))

end Sys2Proof.Machine
end

