-- ==== Sys2Proof/Machine/VaultCodec.lean ====
section
/-! DEFINITION. The vault codec (43_vault_codec.md): SEAL, OPEN, VALIDATE and the discard. -/

namespace Sys2Proof.Machine

/-- `DISCARD`: the per-call cipher material is zeroed, the engine is Uninitialized again (R138). -/
def discard (s : State) : State :=
  { s with
    KEY := Vector.replicate 32 0
    S := Vector.replicate 16 0
    KS := Vector.replicate 64 0
    POS := 64
    INITED := false }

/-- `FB[0..11] <- NONCE[0..11]` and `FB[12 ..] <- VM` (R135 step 3). -/
def layImage (s : State) : State :=
  { s with
    FB := (s.FB.writeRun 0 12 (byteAt s.NONCE)).writeRun cipherOffset (vaultSize s.config) s.VM.read }

/-- `init` with counter 0, then `XOR_BYTES(12, VAULT_SIZE)` (R135 step 4, R136 step 3). -/
def cryptImage (s : State) : State :=
  let s := initEngine 0 s
  setDatapath (xorBytes cipherOffset (vaultSize s.config) (datapathOf s)) s

/-- SEAL past its entropy check, on the drawn nonce `e` (R135 steps 1 to 6). -/
def sealImage (e : Vector Byte 12) (len : Nat) (s : State) : State :=
  let s := deriveKey len { s with NONCE := e }
  let s := cryptImage (layImage s)
  done (discard { s with FLEN := BitVec.ofNat 32 (fileSize s.config) })

/-- SEAL `len` (R135). A source that never answers leaves it without a step (R195). -/
def execSeal (len : Nat) (s : State) : Outcome :=
  if entropyHangs s then .fault .entropyNeverAnswers
  else .next (match entropyReply s with
    | none => raise .entropyError (takeEntropy s)
    | some e => sealImage e len (takeEntropy s))

/-- The image's nonce and the derived key in place, and `FB[12 ..]` decrypted (R136 steps 2 and 3). -/
def decryptImage (len : Nat) (s : State) : State :=
  cryptImage { deriveKey len s with NONCE := Vector.ofFn fun i => s.FB.read i.val }

/-- `VM <- FB[12 .. 12+VAULT_SIZE-1]` (R136 step 4). -/
def loadVault (s : State) : State :=
  { s with VM := s.VM.writeRun 0 (vaultSize s.config) fun i => s.FB.read (cipherOffset + i) }

/-- OPEN past its length check (R136 steps 2 to 6). -/
def openImage (len : Nat) (s : State) : State :=
  let s := decryptImage len s
  if validCountAt s.FB cipherOffset then done (discard (loadVault s))
  else raise .corruptOrWrongPasswordError (discard s)

/-- OPEN `len` (R136). -/
def execOpen (len : Nat) (s : State) : Outcome :=
  .next (if s.FLEN.toNat < fileSize s.config then raise .ioReadError s else openImage len s)

/-- VALIDATE (R137). -/
def execValidate (s : State) : Outcome :=
  .next (if validCountAt s.VM 0 then done s else raise .corruptOrWrongPasswordError s)

end Sys2Proof.Machine
end

