-- ==== Sys2Proof/Machine/Dispatch.lean ====
section
/-! DEFINITION. One arm per command: its meaning (30_encoding.md R73). -/

namespace Sys2Proof.Machine

def exec (i : Instr) (s : State) : Host.Outcome State Fault Refusal :=
  match i with
  | .init => Sys2Proof.Machine.execInit s
  | .nextBlock => Sys2Proof.Machine.execNextBlock s
  | .xorStream n => Sys2Proof.Machine.execXorStream n s
  | .derive len => Sys2Proof.Machine.execDerive len s
  | .sealVault len => Sys2Proof.Machine.execSeal len s
  | .openVault len => Sys2Proof.Machine.execOpen len s
  | .validate => Sys2Proof.Machine.execValidate s

end Sys2Proof.Machine
end

