-- ==== Sys2Proof/Machine/Bus.lean ====
section
/-! DEFINITION. The host's side of the block: the address map (20_memory.md R40), the bus transactions
(R41, R43, R44, R53), the issue of a command (10_state.md R27, 30_encoding.md R76), and reset
(70_reset_and_hazards.md R190). -/

namespace Sys2Proof.Machine

/-- What an address of the host map names (R40). -/
inductive Location where
  | CMD | STATUS | RESULT | CTR0 | DPTR | FLEN
  | S | KS | KEY | NONCE | PW | VM | FB
  deriving DecidableEq, Repr

/-- The two access widths of the map (R43). -/
inductive Width where
  | byte | word
  deriving DecidableEq, Repr

/-- One row of the host map (R40): `count` locations of one width from `base` on, and the host's rights. -/
structure Region where
  what : Location
  base : Nat
  count : Nat
  width : Width
  canRead : Bool
  canWrite : Bool
  deriving DecidableEq, Repr

/-- The host map, row by row as R40 prints it; every address outside it is reserved. -/
def hostMap (c : Config) : List Region :=
  [ ⟨.CMD,    0x00000, 1,           .word, false, true⟩,
    ⟨.STATUS, 0x00004, 1,           .word, true,  false⟩,
    ⟨.RESULT, 0x00008, 1,           .word, true,  false⟩,
    ⟨.CTR0,   0x0000C, 1,           .word, true,  true⟩,
    ⟨.DPTR,   0x00010, 1,           .word, true,  true⟩,
    ⟨.FLEN,   0x00014, 1,           .word, true,  true⟩,
    ⟨.S,      0x00040, 16,          .word, true,  false⟩,
    ⟨.KS,     0x00080, 64,          .byte, true,  false⟩,
    ⟨.KEY,    0x000C0, 32,          .byte, true,  true⟩,
    ⟨.NONCE,  0x000E0, 12,          .byte, true,  true⟩,
    ⟨.PW,     0x00100, 32,          .byte, true,  true⟩,
    ⟨.VM,     0x10000, vaultSize c, .byte, true,  true⟩,
    ⟨.FB,     0x20000, fileSize c,  .byte, true,  true⟩ ]

/-- The distance between two locations of a row. -/
def Width.bytes : Width → Nat
  | .byte => 1
  | .word => 4

/-- The address is one of the row's locations; a word location only at its own multiple of 4 (R43). -/
def Region.holds (r : Region) (a : Nat) : Bool :=
  decide (r.base ≤ a ∧ a < r.base + r.width.bytes * r.count ∧ (a - r.base) % r.width.bytes = 0)

/-- The index of the location inside its row. -/
def Region.index (r : Region) (a : Nat) : Nat := (a - r.base) / r.width.bytes

/-- The location an address names, and its index; `none` at a reserved address (R40, R53 (a)). -/
def locate (c : Config) (a : Nat) : Option Region := (hostMap c).find? (·.holds a)

/-- The location an access of this width reads, `none` where the read is a bus error (R53). -/
def readTarget (c : Config) (w : Width) (a : Nat) : Option Region :=
  (locate c a).filter fun r => r.width == w && r.canRead

/-- The location an access of this width writes, `none` where the write is a bus error (R53). -/
def writeTarget (c : Config) (w : Width) (a : Nat) : Option Region :=
  (locate c a).filter fun r => r.width == w && r.canWrite

/-- The value of a word location (R22 to R26, R12). The other locations are no word locations. -/
def wordValue (s : State) (i : Nat) : Location → Word
  | .STATUS => statusWord s
  | .RESULT => s.RESULT
  | .CTR0 => s.CTR0
  | .DPTR => s.DPTR
  | .FLEN => s.FLEN
  | .S => wordAt s.S i
  | .CMD | .KS | .KEY | .NONCE | .PW | .VM | .FB => 0

/-- The value of a byte location (R13, R17 to R21). The other locations are no byte locations. -/
def byteValue (s : State) (i : Nat) : Location → Byte
  | .KS => byteAt s.KS i
  | .KEY => byteAt s.KEY i
  | .NONCE => byteAt s.NONCE i
  | .PW => byteAt s.PW i
  | .VM => s.VM.read i
  | .FB => s.FB.read i
  | .CMD | .STATUS | .RESULT | .CTR0 | .DPTR | .FLEN | .S => 0

/-- A completed byte write (R17 to R21). No other location is a writable byte location. -/
def storeByte (s : State) (i : Nat) (v : Byte) : Location → State
  | .KEY => { s with KEY := setByteAt s.KEY i v }
  | .NONCE => { s with NONCE := setByteAt s.NONCE i v }
  | .PW => { s with PW := setByteAt s.PW i v }
  | .VM => { s with VM := s.VM.write i v }
  | .FB => { s with FB := s.FB.write i v }
  | .CMD | .STATUS | .RESULT | .CTR0 | .DPTR | .FLEN | .S | .KS => s

/-- The issue of one command: decode, then its own checks and steps (R27, R74, R76). -/
def issue (w : Word) (s : State) : Outcome :=
  match decode w with
  | .command i => exec i s
  | .illegal _ => .next (raise .illegalCommand s)

/-- A completed word write (R22 to R24, R27). No other location is a writable word location. -/
def storeWord (s : State) (v : Word) : Location → Outcome
  | .CMD => issue v s
  | .CTR0 => .next { s with CTR0 := v }
  | .DPTR => .next { s with DPTR := v }
  | .FLEN => .next { s with FLEN := v }
  | .STATUS | .RESULT | .S | .KS | .KEY | .NONCE | .PW | .VM | .FB => .next s

/-- The read transactions record the delivered value (R41). -/
def delivered (r : BusResponse) (s : State) : State := { s with response := r }

/-- The platform's reset (R190, R32): the control state is definite, every content that R32 leaves
unspecified is a free value. R190 leaves open whether those contents depend on the ones before the reset;
the free values are functions of the whole state before it, so neither an erasure nor a survival of old
contents can be proved (DESIGN CHOICE, log entry 3; safe for the contents). The environment is not reset (log entry 3). -/
def applyReset (s : State) : State :=
  { s with
    INITED := false, POS := 64, RESULT := 0, CTR0 := 0, DPTR := 0, FLEN := 0
    S := Vector.ofFn fun i => Config.resetWord s i.val
    KS := Vector.ofFn fun i => Config.resetByte s .KS i.val
    KEY := Vector.ofFn fun i => Config.resetByte s .KEY i.val
    NONCE := Vector.ofFn fun i => Config.resetByte s .NONCE i.val
    PW := Vector.ofFn fun i => Config.resetByte s .PW i.val
    VM := Memory.writeRun [] 0 (vaultSize s.config) (Config.resetByte s .VM)
    FB := Memory.writeRun [] 0 (fileSize s.config) (Config.resetByte s .FB)
    resets := s.resets + 1 }

/-- One host event (R41, R53, R190). -/
def hostEvent (e : HostEvent) (s : State) : Outcome :=
  match e with
  | .read8 a =>
    match readTarget s.config .byte a with
    | some r => .next (delivered (.value8 (byteValue s (r.index a) r.what)) s)
    | none => .refused .busError
  | .read32 a =>
    match readTarget s.config .word a with
    | some r => .next (delivered (.value32 (wordValue s (r.index a) r.what)) s)
    | none => .refused .busError
  | .write8 a v =>
    match writeTarget s.config .byte a with
    | some r => .next (storeByte (delivered .written s) (r.index a) v r.what)
    | none => .refused .busError
  | .write32 a v =>
    match writeTarget s.config .word a with
    | some r => storeWord (delivered .written s) v r.what
    | none => .refused .busError
  | .read16 _ => .refused .busError
  | .write16 _ _ => .refused .busError
  | .reset => .next (applyReset s)

end Sys2Proof.Machine
end

