-- ==== Sys2Proof/Machine/Step.lean ====
section
/-! DEFINITION. One step: the next host event is performed to its end (20_memory.md R47). -/

namespace Sys2Proof.Machine

/-- The oldest pending host event takes effect completely. With none pending the block is idle and
holds its state (60_exceptions.md R171; DESIGN CHOICE, log entry 6). -/
def step (s : State) : Host.Outcome State Fault Refusal :=
  match s.bus with
  | [] => .next s
  | e :: rest => hostEvent e { s with bus := rest }

/-- The host address of `CMD` (20_memory.md R40). -/
def cmdAddress : Nat := 0x00000

/-- The host's next transaction writes this command word to `CMD`: the block fetches nothing, so this is
where its next instruction stands (10_state.md R27, R28; log entry 6). -/
def State.withFetchWord (s : State) (nbits w : Nat) : State :=
  { s with bus := .write32 cmdAddress (tableWord nbits w) :: s.bus }

end Sys2Proof.Machine
end

