-- ==== Sys2Proof/Safety.lean ====
section
/-! DEFINITION. The terms the claims use: the invariant of the block, and the keystream of
41_chacha20_engine.md R109 in closed form (block number `j` by its counter, not by stepping). -/

namespace Sys2Proof.Machine

/-- The codes the block itself leaves in `RESULT`; 2, 4 and 6 are the host's (60_exceptions.md R160,
R170). -/
def blockCodes : List ResultCode :=
  [.ok, .entropyError, .ioReadError, .corruptOrWrongPasswordError, .illegalCommand, .sequenceError,
   .rangeError]

/-- What holds in every state a run reaches. -/
structure State.Inv (s : State) : Prop where
  /-- The values 65..127 of the cursor never occur (10_state.md R14). -/
  cursor_bound : s.POS.toNat ≤ 64
  /-- Whenever `INITED = 0`, `POS = 64` (R15). -/
  uninitialized_cursor : s.INITED = false → s.POS = 64
  /-- After an INIT the first four words hold the constants until the discard (R11). -/
  constants : s.INITED = true → s.S[0] = C0 ∧ s.S[1] = C1 ∧ s.S[2] = C2 ∧ s.S[3] = C3
  /-- `RESULT` holds a code of the block (R160, R170). -/
  result_code : ∃ c ∈ blockCodes, s.RESULT = c.code
  /-- The vault record is in canonical form and inside `VM` (log entry 2). -/
  vm_wf : s.VM.wf
  vm_within : s.VM.within (vaultSize s.config)
  /-- The file image is in canonical form and inside `FB` (log entry 2). -/
  fb_wf : s.FB.wf
  fb_within : s.FB.within (fileSize s.config)

/-- The cipher state `j` block generations after `s`: word 12 is `(c0 + j) mod 2^32`, word 13 takes
`floor((c0 + j) / 2^32)`, the rest as loaded (R109). -/
@[irreducible] def counterState (s : Vector Word 16) (j : Nat) : Vector Word 16 :=
  (s.set 12 (BitVec.ofNat 32 (s[12].toNat + j))).set 13
    (BitVec.ofNat 32 (s[13].toNat + (s[12].toNat + j) / 2 ^ 32))

/-- The keystream byte that byte number `j` from now is XORed with: the rest of the current block first,
then the blocks that follow (42_xor_stream.md R120, R123). -/
@[irreducible] def streamByte (x : Datapath) (j : Nat) : Byte :=
  let p := x.POS.toNat + j
  if p < 64 then byteAt x.KS p
  else byteAt (block (counterState x.S ((p - 64) / 64))) ((p - 64) % 64)

/-- The number of GENERATE steps of `n` bytes from cursor `pos` (R120). -/
def generations (pos n : Nat) : Nat :=
  if n ≤ 64 - pos then 0 else (n - (64 - pos) + 63) / 64

/-- Keystream byte `i` of a file image under a key and a nonce: byte `i mod 64` of the block with
counter `floor(i / 64)`, counted from 0 (43_vault_codec.md R132). -/
@[irreducible] def imageByte (key : Vector Byte 32) (nonce : Vector Byte 12) (i : Nat) : Byte :=
  byteAt (block (initWords key nonce (BitVec.ofNat 32 (i / 64)))) (i % 64)

end Sys2Proof.Machine
end

