-- ==== Sys2Proof/Certificates/Slice0/Obligations.lean ====
section
/-! DEFINITION. The statements for the provers. Each docstring names the rule of spec/ it comes from. A
statement about every state holds in states no run reaches too; where it needs the canonical form of a
buffer or a legal cursor, those are premises, and `StepKeepsInvariant` says every step keeps them. -/

open Sys2Proof Sys2Proof.Machine

/-! ## Encoding -/

/-- Encoding a well-formed command and decoding the word gives it back, every operand at every value
(30_encoding.md R70 to R73, R77). -/
def Obligations.DecodeInvertsEncode : Prop :=
  ∀ i : Instr, i.wellFormed = true → decode (encode i) = .command i

/-- Every word that decodes to a command is that command's own word, and the command is well formed: no bit
of a word is dropped (R71, R72). -/
def Obligations.DecodedWordIsItsEncoding : Prop :=
  ∀ (w : Word) (i : Instr), decode w = .command i → i.wellFormed = true ∧ encode i = w

/-- R75: every word is either exactly one command of R73's rows or illegal. -/
def Obligations.EveryWordIsOneRowOrIllegal : Prop :=
  ∀ w : Word,
    (∃ i r, decode w = .command i ∧ r ∈ opcodeMap ∧ r.selects w = true ∧ r.mnemonic = i.mnemonic ∧
      ∀ r' ∈ opcodeMap, r'.selects w = true → r' = r) ∨
    (∃ why, decode w = .illegal why ∧ ∀ r ∈ opcodeMap, r.selects w = false)

/-- R74: which words match no row, and that such a word, issued, writes `0x80` to `RESULT` and changes no
other state (`StepRunsTheDecodedCommand` says that a write to `CMD` issues its word). -/
def Obligations.IllegalWordWritesOnlyResult : Prop :=
  (∀ w : Word, (∀ r ∈ opcodeMap, r.selects w = false) ↔
    (opField w ∉ ([0x01, 0x02, 0x03, 0x10, 0x20, 0x21, 0x22] : List Byte) ∨
      (opField w ∈ ([0x01, 0x02, 0x22] : List Byte) ∧ immField w ≠ 0))) ∧
  (∀ (s : State) (w : Word), (∀ r ∈ opcodeMap, r.selects w = false) →
    issue w s = .next { s with RESULT := 0x80 })

/-- Words of 95_test_vectors.md 2.8, and 2.7's row K4 for DERIVE 33, decode to the commands they are listed
for. -/
def Obligations.ListedWordsDecode : Prop :=
  decode 0x00000001 = .command .init ∧ decode 0x00000002 = .command .nextBlock ∧
  decode 0x00000503 = .command (.xorStream 5) ∧ decode 0xFFFFFF03 = .command (.xorStream 16777215) ∧
  decode 0x00002110 = .command (.derive 33) ∧ decode 0x00000720 = .command (.sealVault 7) ∧
  decode 0x00000521 = .command (.openVault 5) ∧ decode 0x00000022 = .command .validate ∧
  (∃ y, decode 0x00000101 = .illegal y) ∧ (∃ y, decode 0x00010002 = .illegal y) ∧
  (∃ y, decode 0x00000122 = .illegal y) ∧ (∃ y, decode 0x00000000 = .illegal y) ∧
  (∃ y, decode 0xFFFFFFFF = .illegal y)

/-! ## The step -/

/-- A write to `CMD` issues its word, and a command's word runs exactly that command, after the transaction
has been taken from the queue; `withFetchWord` is that situation (10_state.md R27, R28). The queue and the
recorded response are the model's choice (log entries 6 and 8). -/
def Obligations.StepRunsTheDecodedCommand : Prop :=
  (∀ (s : State) (w : Word) (rest : List HostEvent), s.bus = .write32 0x00000 w :: rest →
    step s = issue w { s with bus := rest, response := .written }) ∧
  (∀ (s : State) (w : Word) (rest : List HostEvent) (i : Instr),
    s.bus = .write32 0x00000 w :: rest → decode w = .command i →
    step s = exec i { s with bus := rest, response := .written }) ∧
  (∀ (s : State) (w : Nat) (i : Instr), w < 2 ^ 32 → decodeTableWord 32 w = some i →
    step (s.withFetchWord 32 w) = exec i { s with response := .written })

/-- With no host event pending the block is idle and holds its state (60_exceptions.md R171). That the idle
block has a step, and the queue itself, are the model's choice (log entry 6). -/
def Obligations.IdleBlockHoldsItsState : Prop :=
  ∀ s : State, s.bus = [] → step s = .next s

/-- The step follows R47's single order: it takes the oldest event and no other, so the events that wait
after it are still there in order, whatever the event was. The queue is the model's choice (log entry 6), and
so is that the parameter is carried in the state (log entry 4). -/
def Obligations.StepTakesExactlyTheOldestEvent : Prop :=
  ∀ (s t : State) (e : HostEvent) (rest : List HostEvent),
    s.bus = e :: rest → step s = .next t → t.bus = rest ∧ t.config = s.config

/-! ## Key derivation -/

/-- R91: DERIVE completes in every state, `KEY` becomes `derive(PW, len)` (byte `i` of `PW` below `len`,
zero from `len` on), `RESULT` is 0 and nothing else changes; its words are those with `op = 0x10`, `len` in
`imm`. -/
def Obligations.DeriveWritesTheNormalisedKey : Prop :=
  (∀ (s : State) (len : Nat), ∃ t, exec (.derive len) s = .next t ∧
    t = { s with KEY := t.KEY, RESULT := 0 } ∧
    ∀ (i : Nat) (h : i < 32), t.KEY[i] = if i < len then s.PW[i] else 0) ∧
  (∀ w : Word, opField w = 0x10 → decode w = .command (.derive (immField w).toNat))

/-- R90: bytes of `PW` at and above `len` do not reach the key, and every `len >= 32` gives the same key. -/
def Obligations.DeriveSeesOnlyThePasswordPrefix : Prop :=
  (∀ (s : State) (p : Vector Byte 32) (len : Nat),
    (∀ (i : Nat) (h : i < 32), i < len → p[i] = s.PW[i]) →
    ∃ t, exec (.derive len) s = .next t ∧
      exec (.derive len) { s with PW := p } = .next { t with PW := p }) ∧
  (∀ (s : State) (len : Nat), 32 ≤ len → exec (.derive len) s = exec (.derive 32) s)

/-! ## The engine -/

/-- R100, R6: the four rotations lose no bit. -/
def Obligations.RotationsLoseNoBit : Prop :=
  ∀ (x : Word) (n : Nat), n ∈ [16, 12, 8, 7] →
    rotl32 x n = x.rotateLeft n ∧
    ∀ i, i < 32 → (rotl32 x n).getLsbD ((i + n) % 32) = x.getLsbD i

/-- R102: the quarter-round step by step, that it is a bijection, and `QR_at`: its four results go back to
the four places they came from and the other twelve words are unchanged. -/
def Obligations.QuarterRoundFollowsItsSteps : Prop :=
  (∀ a b c d : Word,
    let a1 := a + b
    let d1 := (d ^^^ a1).rotateLeft 16
    let c1 := c + d1
    let b1 := (b ^^^ c1).rotateLeft 12
    let a2 := a1 + b1
    let d2 := (d1 ^^^ a2).rotateLeft 8
    let c2 := c1 + d2
    let b2 := (b1 ^^^ c2).rotateLeft 7
    quarterRound (a, b, c, d) = (a2, b2, c2, d2)) ∧
  Function.Bijective quarterRound ∧
  (∀ (w : Vector Word 16) (i j k l : Fin 16), [i, j, k, l].Nodup →
    ((qrAt w i j k l)[i], (qrAt w i j k l)[j], (qrAt w i j k l)[k], (qrAt w i j k l)[l])
      = quarterRound (w[i], w[j], w[k], w[l]) ∧
    ∀ m : Fin 16, m ∉ [i, j, k, l] → (qrAt w i j k l)[m] = w[m])

/-- R103: the eight quarter-rounds in their order, and that quarter-rounds on disjoint words may be
exchanged. -/
def Obligations.DoubleRoundOrder : Prop :=
  (∀ w : Vector Word 16, doubleRound w =
    qrAt (qrAt (qrAt (qrAt (qrAt (qrAt (qrAt (qrAt w 0 4 8 12) 1 5 9 13) 2 6 10 14) 3 7 11 15)
      0 5 10 15) 1 6 11 12) 2 7 8 13) 3 4 9 14) ∧
  (∀ (w : Vector Word 16) (i j k l i' j' k' l' : Fin 16), [i, j, k, l, i', j', k', l'].Nodup →
    qrAt (qrAt w i j k l) i' j' k' l' = qrAt (qrAt w i' j' k' l') i j k l)

/-- R104: byte `4i + k` of a block is byte `k`, least significant first, of word `i` of the ten times
double-rounded copy plus the original word. -/
def Obligations.BlockSerialisesTheFeedForward : Prop :=
  ∀ (s : Vector Word 16) (i : Nat) (hi : i < 16) (k : Nat) (_ : k < 4),
    (block s)[4 * i + k] = ((doubleRound^[10] s)[i] + s[i]).extractLsb' (8 * k) 8

/-- R106: INIT completes in every state; the sixteen words it loads, little-endian as R6 writes `LE32`;
nothing else but `POS`, `INITED` and `RESULT` changes; of the words with `op = 0x01` only the one with
`imm = 0` is INIT, the others are illegal. -/
def Obligations.InitLoadsTheEngine : Prop :=
  (∀ s : State, ∃ t, exec .init s = .next t ∧
    t = { s with S := t.S, POS := 64, INITED := true, RESULT := 0 } ∧
    t.S[0] = 0x61707865 ∧ t.S[1] = 0x3320646E ∧ t.S[2] = 0x79622D32 ∧ t.S[3] = 0x6B206574 ∧
    (∀ (i : Nat) (h : i < 8), (t.S[4 + i]).toNat =
      (s.KEY[4 * i]).toNat + 2 ^ 8 * (s.KEY[4 * i + 1]).toNat + 2 ^ 16 * (s.KEY[4 * i + 2]).toNat +
        2 ^ 24 * (s.KEY[4 * i + 3]).toNat) ∧
    t.S[12] = s.CTR0 ∧
    (∀ (i : Nat) (h : i < 3), (t.S[13 + i]).toNat =
      (s.NONCE[4 * i]).toNat + 2 ^ 8 * (s.NONCE[4 * i + 1]).toNat +
        2 ^ 16 * (s.NONCE[4 * i + 2]).toNat + 2 ^ 24 * (s.NONCE[4 * i + 3]).toNat)) ∧
  (∀ w : Word, opField w = 0x01 →
    (immField w = 0 → decode w = .command .init) ∧ (immField w ≠ 0 → ∃ y, decode w = .illegal y))

/-- R105, R107 (and its GENERATE, R108): NEXT_BLOCK completes in Ready and Streaming: `KS` is the block of the counter before
the advance, `S[12]` steps, `S[13]` takes the carry exactly when `S[12]` was `0xFFFFFFFF`, nothing else but
`RESULT` changes; in Uninitialized it writes `0x81` to `RESULT` and nothing else; of the words with
`op = 0x02` only the one with `imm = 0` is NEXT_BLOCK, the others are illegal. -/
def Obligations.NextBlockGeneratesOneBlock : Prop :=
  (∀ s : State, s.INITED = true → ∃ t, exec .nextBlock s = .next t ∧
    t = { s with KS := block s.S, S := t.S, RESULT := 0 } ∧
    t.S = if s.S[12] = 0xFFFFFFFF then (s.S.set 12 0).set 13 (s.S[13] + 1)
      else s.S.set 12 (s.S[12] + 1)) ∧
  (∀ s : State, s.INITED = false → exec .nextBlock s = .next { s with RESULT := 0x81 }) ∧
  (∀ w : Word, opField w = 0x02 →
    (immField w = 0 → decode w = .command .nextBlock) ∧ (immField w ≠ 0 → ∃ y, decode w = .illegal y))

/-- R109: the `j`-th GENERATE after an INIT computes BLOCK on the words as loaded, with word 12 at
`(c0 + j) mod 2^32` and word 13 at `(n0 + floor((c0 + j) / 2^32)) mod 2^32`. -/
def Obligations.KeystreamBlockSequence : Prop :=
  ∀ (s t : State) (j : Nat), exec .init s = .next t →
    ∃ w : Vector Word 16,
      (generate^[j + 1] (datapathOf t)).KS = block w ∧
      (∀ (i : Nat) (h : i < 12), w[i] = t.S[i]) ∧
      (w[12]).toNat = (s.CTR0.toNat + j) % 2 ^ 32 ∧
      (w[13]).toNat = ((t.S[13]).toNat + (s.CTR0.toNat + j) / 2 ^ 32) % 2 ^ 32 ∧
      w[14] = t.S[14] ∧ w[15] = t.S[15]

/-- R197: after its carry a stream runs through the blocks of the stream whose first nonce word is one
more. -/
def Obligations.WrappedStreamMeetsItsNeighbour : Prop :=
  ∀ (key : Vector Byte 32) (nonce nonce' : Vector Byte 12) (c : Word) (d j : Nat),
    c.toNat + d = 2 ^ 32 + j →
    nonceWord nonce' 0 = nonceWord nonce 0 + 1 → nonceWord nonce' 1 = nonceWord nonce 1 →
    nonceWord nonce' 2 = nonceWord nonce 2 →
    advance^[d] (initWords key nonce c) = advance^[j] (initWords key nonce' 0)

/-! ## The stream -/

/-- R121, R120: XOR_STREAM in its three cases. Uninitialized: `0x81` and nothing else. Out of range:
`0x82` and nothing else. Otherwise it completes: the bytes `FB[DPTR .. DPTR+n-1]` and no others are XORed
with the keystream, the blocks that needs are generated, and only `FB`, `POS`, `KS`, `S` and `RESULT`
change. The cursor must be legal and `FB` canonical (the invariant). -/
def Obligations.XorStreamEffect : Prop :=
  (∀ (s : State) (n : Nat), s.INITED = false → exec (.xorStream n) s = .next { s with RESULT := 0x81 }) ∧
  (∀ (s : State) (n : Nat), s.INITED = true → fileSize s.config < s.DPTR.toNat + n →
    exec (.xorStream n) s = .next { s with RESULT := 0x82 }) ∧
  (∀ (s : State) (n : Nat), s.INITED = true → s.DPTR.toNat + n ≤ fileSize s.config →
    s.POS.toNat ≤ 64 → s.FB.wf →
    ∃ t, exec (.xorStream n) s = .next t ∧
      t = { s with FB := t.FB, POS := t.POS, KS := t.KS, S := t.S, RESULT := 0 } ∧
      (∀ a, t.FB.read a = if s.DPTR.toNat ≤ a ∧ a < s.DPTR.toNat + n
        then s.FB.read a ^^^ streamByte (datapathOf s) (a - s.DPTR.toNat) else s.FB.read a) ∧
      t.POS.toNat = (if n = 0 then s.POS.toNat else (s.POS.toNat + n - 1) % 64 + 1) ∧
      t.S = counterState s.S (generations s.POS.toNat n) ∧
      t.KS = if generations s.POS.toNat n = 0 then s.KS
        else block (counterState s.S (generations s.POS.toNat n - 1)))

/-- R123: XOR_STREAM `a`, then (after the host moves `DPTR` by `a`) XOR_STREAM `b`, is XOR_STREAM
`(a + b)` on `FB`, `S`, `KS` and `POS`, and on everything else. -/
def Obligations.XorStreamContinues : Prop :=
  ∀ (s : State) (a b : Nat), s.INITED = true → s.DPTR.toNat + (a + b) ≤ fileSize s.config →
    ∃ t u, exec (.xorStream a) s = .next t ∧
      exec (.xorStream b) { t with DPTR := s.DPTR + BitVec.ofNat 32 a } = .next u ∧
      exec (.xorStream (a + b)) s = .next { u with DPTR := s.DPTR }

/-- R122: INIT and XOR_STREAM `n` a second time, with the same `KEY`, `NONCE`, `CTR0` and `DPTR`, turn the
bytes back, whatever else has happened to the state in between. -/
def Obligations.XorStreamIsItsOwnInverse : Prop :=
  ∀ (s s1 s2 u : State) (n : Nat), s.FB.wf → s.DPTR.toNat + n ≤ fileSize s.config →
    exec .init s = .next s1 → exec (.xorStream n) s1 = .next s2 →
    u.KEY = s.KEY → u.NONCE = s.NONCE → u.CTR0 = s.CTR0 → u.DPTR = s.DPTR → u.config = s.config →
    u.FB = s2.FB →
    ∃ u1 u2, exec .init u = .next u1 ∧ exec (.xorStream n) u1 = .next u2 ∧ u2.FB = s.FB

/-- A running stream reads only the engine: what the host or a DERIVE does to `KEY`, `NONCE`, `PW`, `CTR0`
and `VM` does not reach it (40_key_derivation.md R91, 42_xor_stream.md R120). -/
def Obligations.RunningStreamIgnoresNewKeys : Prop :=
  ∀ (s t : State) (n : Nat) (k : Vector Byte 32) (m : Vector Byte 12) (p : Vector Byte 32) (c : Word)
    (v : Memory), exec (.xorStream n) s = .next t →
    exec (.xorStream n) { s with KEY := k, NONCE := m, PW := p, CTR0 := c, VM := v }
      = .next { t with KEY := k, NONCE := m, PW := p, CTR0 := c, VM := v }

/-! ## The vault codec -/

/-- R135: SEAL whose entropy request is answered `ok(e)` completes, in every phase: `FB` is the image (the
nonce, then the record XORed with the image's keystream), `NONCE`, `FLEN` and `RESULT` as the rule gives,
the context discarded, `VM`, `PW`, `CTR0`, `DPTR` unchanged; the answer is used up (the list of answers is
the model's choice, log entry 5). -/
def Obligations.SealWritesTheImage : Prop :=
  ∀ (s : State) (len : Nat) (e : Vector Byte 12), s.FB.wf → entropyHangs s = false →
    entropyReply s = some e →
    ∃ t, exec (.sealVault len) s = .next t ∧
      t = { s with
        NONCE := e, FB := t.FB, FLEN := BitVec.ofNat 32 (fileSize s.config), RESULT := 0,
        KEY := Vector.replicate 32 0, S := Vector.replicate 16 0, KS := Vector.replicate 64 0,
        POS := 64, INITED := false,
        entropy := s.entropy.tail, entropyDraws := s.entropyDraws + 1 } ∧
      (∀ (i : Nat) (h : i < 12), t.FB.read i = e[i]) ∧
      (∀ i, i < vaultSize s.config →
        t.FB.read (12 + i) = s.VM.read i ^^^ imageByte (derive s.PW len) e i) ∧
      (∀ a, fileSize s.config ≤ a → t.FB.read a = s.FB.read a)

/-- R135, R163: an EntropyError writes 1 to `RESULT` and changes nothing else of the block. The list of
answers and its counter are the model's choice (log entry 5). -/
def Obligations.SealWithoutEntropyChangesOnlyResult : Prop :=
  ∀ (s : State) (len : Nat), entropyHangs s = false → entropyReply s = none →
    exec (.sealVault len) s = .next { s with
      RESULT := 0x01, entropy := s.entropy.tail, entropyDraws := s.entropyDraws + 1 }

/-- R195: SEAL has a step exactly when the entropy source answers. That the hang is written as a fault is the
model's choice (log entry 5). -/
def Obligations.SealStepsExactlyWhenAnswered : Prop :=
  ∀ (s : State) (len : Nat),
    (entropyHangs s = true → exec (.sealVault len) s = .fault .entropyNeverAnswers) ∧
    (entropyHangs s = false → ∃ t, exec (.sealVault len) s = .next t)

/-- R136: OPEN with too few bytes writes 3 to `RESULT` and nothing else; otherwise it completes, in every
phase: `NONCE` from the image, `FB[12 ..]` decrypted in place, `VM` written only when the decrypted count is
valid, the context discarded, `RESULT` 0 or 5, and nothing else changes. -/
def Obligations.OpenDecryptsTheImage : Prop :=
  (∀ (s : State) (len : Nat), s.FLEN.toNat < fileSize s.config →
    exec (.openVault len) s = .next { s with RESULT := 0x03 }) ∧
  (∀ (s : State) (len : Nat), fileSize s.config ≤ s.FLEN.toNat → s.FB.wf → s.VM.wf →
    ∃ t, exec (.openVault len) s = .next t ∧
      t = { s with
        NONCE := t.NONCE, FB := t.FB, VM := t.VM,
        RESULT := if validCountAt t.FB 12 then 0x00 else 0x05,
        KEY := Vector.replicate 32 0, S := Vector.replicate 16 0, KS := Vector.replicate 64 0,
        POS := 64, INITED := false } ∧
      (∀ (i : Nat) (h : i < 12), t.NONCE[i] = s.FB.read i) ∧
      (∀ a, t.FB.read a = if 12 ≤ a ∧ a < fileSize s.config
        then s.FB.read a ^^^ imageByte (derive s.PW len) t.NONCE (a - 12) else s.FB.read a) ∧
      (validCountAt t.FB 12 = true → ∀ i,
        t.VM.read i = if i < vaultSize s.config then t.FB.read (12 + i) else s.VM.read i) ∧
      (validCountAt t.FB 12 = false → t.VM = s.VM))

/-- R139: the round trip. After a successful SEAL, an OPEN with the same password, the same `FB` and the
same `FLEN` decrypts to exactly the sealed record, and reports and stores it according to its count. -/
def Obligations.OpenInvertsSeal : Prop :=
  ∀ (s t u : State) (len : Nat) (e : Vector Byte 12), s.FB.wf → entropyHangs s = false →
    entropyReply s = some e → exec (.sealVault len) s = .next t →
    u.config = s.config → u.PW = s.PW → u.FB = t.FB → u.FLEN = t.FLEN → u.VM.wf →
    ∃ v, exec (.openVault len) u = .next v ∧
      (∀ i, i < vaultSize s.config → v.FB.read (12 + i) = s.VM.read i) ∧
      (validCountAt s.VM 0 = true → v.RESULT = 0x00 ∧
        ∀ i, i < vaultSize s.config → v.VM.read i = s.VM.read i) ∧
      (validCountAt s.VM 0 = false → v.RESULT = 0x05 ∧ v.VM = u.VM)

/-- R136's corner case: a change to a ciphertext byte other than `FB[12..15]` is never detected: the same
`RESULT`, and the same bits of that one plaintext byte changed in `FB` and nothing else there. -/
def Obligations.TamperedByteIsUndetected : Prop :=
  ∀ (s t : State) (len a : Nat) (d : Byte), s.FB.wf → fileSize s.config ≤ s.FLEN.toNat → 16 ≤ a →
    a < fileSize s.config → exec (.openVault len) s = .next t →
    ∃ v, exec (.openVault len) { s with FB := s.FB.write a (s.FB.read a ^^^ d) } = .next v ∧
      v.RESULT = t.RESULT ∧
      ∀ b, v.FB.read b = if b = a then t.FB.read b ^^^ d else t.FB.read b

/-- R133: signed or unsigned, `0 <= count <= 100` accepts exactly the patterns `b1 = b2 = b3 = 0`,
`b0 <= 100`, where `count` is the little-endian two's-complement reading of the four bytes. -/
def Obligations.ValidCountPatterns : Prop :=
  ∀ b0 b1 b2 b3 : Byte,
    let n : Nat := b0.toNat + 2 ^ 8 * b1.toNat + 2 ^ 16 * b2.toNat + 2 ^ 24 * b3.toNat
    (countOf b0 b1 b2 b3 = if n < 2 ^ 31 then (n : Int) else (n : Int) - 2 ^ 32) ∧
    (validCount b0 b1 b2 b3 = true ↔ 0 ≤ countOf b0 b1 b2 b3 ∧ countOf b0 b1 b2 b3 ≤ 100) ∧
    (validCount b0 b1 b2 b3 = true ↔ n ≤ 100) ∧
    (validCount b0 b1 b2 b3 = true ↔ b1 = 0 ∧ b2 = 0 ∧ b3 = 0 ∧ b0.toNat ≤ 100)

/-- R137: VALIDATE completes in every state and changes nothing but `RESULT`, which is 0 exactly when
`VM[1..3]` are zero and `VM[0]` is at most 100, else 5. -/
def Obligations.ValidateReportsTheCount : Prop :=
  ∀ s : State, exec .validate s = .next { s with
    RESULT := if s.VM.read 0 ≤ 100 ∧ s.VM.read 1 = 0 ∧ s.VM.read 2 = 0 ∧ s.VM.read 3 = 0
      then 0x00 else 0x05 }

/-- R138: a SEAL or OPEN past its first check leaves the engine Uninitialized with its secrets zeroed, so
that a later NEXT_BLOCK or XOR_STREAM is refused with `0x81` instead of continuing the vault's stream. -/
def Obligations.CodecDiscardsItsContext : Prop :=
  ∀ (s t : State) (i : Instr) (len : Nat),
    (i = .sealVault len ∧ (∃ e, entropyReply s = some e)) ∨
      (i = .openVault len ∧ fileSize s.config ≤ s.FLEN.toNat) →
    exec i s = .next t →
    t.KEY = Vector.replicate 32 0 ∧ t.S = Vector.replicate 16 0 ∧ t.KS = Vector.replicate 64 0 ∧
    phase t = .uninitialized ∧ t.POS = 64 ∧
    exec .nextBlock t = .next { t with RESULT := 0x81 } ∧
    ∀ n, exec (.xorStream n) t = .next { t with RESULT := 0x81 }

/-- R135, R136: the engine context before a successful SEAL or a long enough OPEN, and the key and nonce
buffers, do not affect the result. -/
def Obligations.CodecIgnoresTheOldContext : Prop :=
  ∀ (s : State) (len : Nat) (w : Vector Word 16) (b : Vector Byte 64) (p : BitVec 7) (f : Bool)
    (k : Vector Byte 32) (m : Vector Byte 12),
    ((∃ e, entropyReply s = some e) →
      exec (.sealVault len) { s with S := w, KS := b, POS := p, INITED := f, KEY := k, NONCE := m }
        = exec (.sealVault len) s) ∧
    (fileSize s.config ≤ s.FLEN.toNat →
      exec (.openVault len) { s with S := w, KS := b, POS := p, INITED := f, KEY := k, NONCE := m }
        = exec (.openVault len) s)

/-! ## The whole block -/

/-- Every step keeps the invariant: the cursor and the phase stay legal (R14, R15), the constants stay in
place while the engine is initialised (R11), `RESULT` holds a code of the block (R160, R170), and both
buffers stay canonical and inside their sizes (the canonical form is the model's choice, log entry 2). -/
def Obligations.StepKeepsInvariant : Prop :=
  ∀ s t : State, s.Inv → step s = .next t → t.Inv

/-- The state after reset meets the invariant. -/
def Obligations.ResetMeetsInvariant : Prop := State.reset.Inv

/-- R16: the phase after each command, row by row of the table, and R16's cursor formula. -/
def Obligations.PhaseTransitionTable : Prop :=
  ∀ s : State, s.Inv →
    (∀ len t, exec (.derive len) s = .next t → phase t = phase s ∧ t.POS = s.POS) ∧
    (∀ t, exec .validate s = .next t → phase t = phase s ∧ t.POS = s.POS) ∧
    (∀ t, exec .init s = .next t → phase t = .ready) ∧
    (∀ t, exec .nextBlock s = .next t → phase t = phase s ∧ t.POS = s.POS ∧
      (phase s = .uninitialized → t = { s with RESULT := 0x81 })) ∧
    (∀ n t, exec (.xorStream n) s = .next t →
      (phase s = .uninitialized → t = { s with RESULT := 0x81 }) ∧
      (phase s ≠ .uninitialized → fileSize s.config < s.DPTR.toNat + n →
        t = { s with RESULT := 0x82 }) ∧
      (phase s ≠ .uninitialized → n = 0 → s.DPTR.toNat ≤ fileSize s.config →
        phase t = phase s ∧ t.POS = s.POS) ∧
      (phase s ≠ .uninitialized → 0 < n → s.DPTR.toNat + n ≤ fileSize s.config →
        t.POS.toNat = (s.POS.toNat + n - 1) % 64 + 1 ∧
        phase t = if t.POS.toNat < 64 then .streaming else .ready)) ∧
    (∀ len t, exec (.sealVault len) s = .next t →
      phase t = .uninitialized ∨ (t.RESULT = 0x01 ∧ phase t = phase s ∧ t.POS = s.POS)) ∧
    (∀ len t, exec (.openVault len) s = .next t →
      phase t = .uninitialized ∨ (t.RESULT = 0x03 ∧ t = { s with RESULT := 0x03 })) ∧
    (∀ w why t, decode w = .illegal why → issue w s = .next t → phase t = phase s ∧ t.POS = s.POS)

/-- R11, R12: DERIVE and VALIDATE write no cipher-state word; NEXT_BLOCK and XOR_STREAM write none but
`S[12]` and `S[13]`; SEAL and OPEN end with all sixteen zero, or (on their early failure) untouched. -/
def Obligations.CipherWordsWriters : Prop :=
  ∀ (i : Instr) (s t : State), exec i s = .next t →
    ((∃ len, i = .derive len) ∨ i = .validate → t.S = s.S) ∧
    (i = .nextBlock ∨ (∃ n, i = .xorStream n) →
      ∀ (k : Nat) (h : k < 16), k ≠ 12 → k ≠ 13 → t.S[k] = s.S[k]) ∧
    ((∃ len, i = .sealVault len) ∨ (∃ len, i = .openVault len) →
      t.S = Vector.replicate 16 0 ∨ t.S = s.S)

/-- R19, R20, R22, R23, R24, R31: no command writes `PW`, `CTR0`, `DPTR` or the parameter; only OPEN
writes `VM`; only SEAL writes `FLEN`; the host's queue and the last response (the model's choice, log
entries 6 and 8) are not touched either. -/
def Obligations.CommandsLeaveTheHostsRegisters : Prop :=
  ∀ (i : Instr) (s t : State), exec i s = .next t →
    t.PW = s.PW ∧ t.CTR0 = s.CTR0 ∧ t.DPTR = s.DPTR ∧ t.config = s.config ∧
    ((∀ len, i ≠ .openVault len) → t.VM = s.VM) ∧
    ((∀ len, i ≠ .sealVault len) → t.FLEN = s.FLEN) ∧
    t.bus = s.bus ∧ t.response = s.response ∧ t.resets = s.resets

/-- R163's table: a command that ends with EntropyError, IOReadError, SequenceError or RangeError, or a
VALIDATE that fails, has changed nothing of the block but `RESULT`. -/
def Obligations.RefusedCommandChangesOnlyResult : Prop :=
  ∀ (i : Instr) (s t : State), exec i s = .next t →
    (t.RESULT ∈ ([0x01, 0x03, 0x81, 0x82] : List Word) ∨ i = .validate) →
    t = { s with RESULT := t.RESULT, entropy := t.entropy, entropyDraws := t.entropyDraws }

/-- R160, R161, R170: the codes each command can end with, and so no command ever reports 2, 4 or 6. -/
def Obligations.ResultCodesByCommand : Prop :=
  ∀ (s t : State),
    (exec .init s = .next t → t.RESULT = 0x00) ∧
    (∀ len, exec (.derive len) s = .next t → t.RESULT = 0x00) ∧
    (exec .nextBlock s = .next t → t.RESULT = if s.INITED then 0x00 else 0x81) ∧
    (∀ n, exec (.xorStream n) s = .next t → t.RESULT =
      if s.INITED = false then 0x81 else if fileSize s.config < s.DPTR.toNat + n then 0x82 else 0x00) ∧
    (∀ len, exec (.sealVault len) s = .next t →
      t.RESULT = if entropyReply s = none then 0x01 else 0x00) ∧
    (∀ len, exec (.openVault len) s = .next t →
      (t.RESULT = 0x03 ↔ s.FLEN.toNat < fileSize s.config) ∧
      t.RESULT ∈ ([0x00, 0x03, 0x05] : List Word)) ∧
    (exec .validate s = .next t → t.RESULT ∈ ([0x00, 0x05] : List Word))

/-! ## The host's side -/

/-- R26: the fields of a `STATUS` read, the reserved ones zero, `PHASE` never 3; the read changes nothing, a
write is refused; and its value after reset (the recorded response is the model's choice, log entry 8). -/
def Obligations.StatusFields : Prop :=
  (∀ s : State,
    (statusWord s).extractLsb' 0 2 = (phase s).number ∧ (phase s).number ≠ 3 ∧
    (statusWord s).extractLsb' 2 6 = 0 ∧ (statusWord s).extractLsb' 8 7 = s.POS ∧
    (statusWord s).extractLsb' 15 17 = 0) ∧
  (∀ (s : State) (rest : List HostEvent), s.bus = .read32 0x00004 :: rest →
    step s = .next { s with bus := rest, response := .value32 (statusWord s) }) ∧
  (∀ (s : State) (v : Word) (rest : List HostEvent), s.bus = .write32 0x00004 v :: rest →
    step s = .refused .busError) ∧
  statusWord State.reset = 0x00004000

/-- R40, R41, R44: what a read of each readable location delivers; a read changes no state of the block. The
recorded response is the model's choice (log entry 8). -/
def Obligations.HostReadsDeliverTheMap : Prop :=
  ∀ (s : State) (rest : List HostEvent),
    let reads32 (a : Nat) (v : Word) : Prop :=
      step { s with bus := .read32 a :: rest } = .next { s with bus := rest, response := .value32 v }
    let reads8 (a : Nat) (v : Byte) : Prop :=
      step { s with bus := .read8 a :: rest } = .next { s with bus := rest, response := .value8 v }
    reads32 0x00004 (statusWord s) ∧ reads32 0x00008 s.RESULT ∧ reads32 0x0000C s.CTR0 ∧
    reads32 0x00010 s.DPTR ∧ reads32 0x00014 s.FLEN ∧
    (∀ (i : Nat) (h : i < 16), reads32 (0x00040 + 4 * i) s.S[i]) ∧
    (∀ (i : Nat) (h : i < 64), reads8 (0x00080 + i) s.KS[i]) ∧
    (∀ (i : Nat) (h : i < 32), reads8 (0x000C0 + i) s.KEY[i]) ∧
    (∀ (i : Nat) (h : i < 12), reads8 (0x000E0 + i) s.NONCE[i]) ∧
    (∀ (i : Nat) (h : i < 32), reads8 (0x00100 + i) s.PW[i]) ∧
    (∀ i, i < vaultSize s.config → reads8 (0x10000 + i) (s.VM.read i)) ∧
    (∀ i, i < fileSize s.config → reads8 (0x20000 + i) (s.FB.read i))

/-- R40, R41, R44: what a write of each writable location but `CMD` does: that location gets the value and
nothing else of the block changes (the recorded response: log entry 8). -/
def Obligations.HostWritesReplaceOneLocation : Prop :=
  ∀ (s : State) (rest : List HostEvent) (v : Word) (b : Byte),
    let after : State := { s with bus := rest, response := .written }
    let writes32 (a : Nat) (t : State) : Prop := step { s with bus := .write32 a v :: rest } = .next t
    let writes8 (a : Nat) (t : State) : Prop := step { s with bus := .write8 a b :: rest } = .next t
    writes32 0x0000C { after with CTR0 := v } ∧ writes32 0x00010 { after with DPTR := v } ∧
    writes32 0x00014 { after with FLEN := v } ∧
    (∀ (i : Nat) (h : i < 32), writes8 (0x000C0 + i) { after with KEY := s.KEY.set i b }) ∧
    (∀ (i : Nat) (h : i < 12), writes8 (0x000E0 + i) { after with NONCE := s.NONCE.set i b }) ∧
    (∀ (i : Nat) (h : i < 32), writes8 (0x00100 + i) { after with PW := s.PW.set i b }) ∧
    (∀ i, i < vaultSize s.config → ∃ m, writes8 (0x10000 + i) { after with VM := m } ∧
      (s.VM.wf → m.wf ∧ ∀ j, m.read j = if j = i then b else s.VM.read j)) ∧
    (∀ i, i < fileSize s.config → ∃ m, writes8 (0x20000 + i) { after with FB := m } ∧
      (s.FB.wf → m.wf ∧ ∀ j, m.read j = if j = i then b else s.FB.read j))

/-- R12, R13, R14, R25: no transaction of the host but the issue of a command changes `S`, `KS`, the cursor,
`INITED` or `RESULT`; none changes the parameter. -/
def Obligations.HostCannotWriteTheEngine : Prop :=
  ∀ (s t : State) (e : HostEvent) (rest : List HostEvent), s.bus = e :: rest →
    (∀ w, e ≠ .write32 0x00000 w) → e ≠ .reset → step s = .next t →
    t.S = s.S ∧ t.KS = s.KS ∧ t.POS = s.POS ∧ t.INITED = s.INITED ∧ t.RESULT = s.RESULT ∧
    t.config = s.config ∧ t.entropy = s.entropy

/-- R53, R43: exactly which transactions are bus errors: a step on one is refused, and on any other
transaction it is not. That a refusal ends the run is the model's choice (log entry 7). -/
def Obligations.BusErrorsExactly : Prop :=
  ∀ (s : State) (rest : List HostEvent) (a : Nat) (v : Word) (b : Byte) (h : BitVec 16),
    let refused (e : HostEvent) : Prop := step { s with bus := e :: rest } = .refused .busError
    (refused (.read32 a) ↔
      ¬ (a ∈ [0x00004, 0x00008, 0x0000C, 0x00010, 0x00014] ∨ ∃ i, i < 16 ∧ a = 0x00040 + 4 * i)) ∧
    (refused (.write32 a v) ↔ ¬ a ∈ [0x00000, 0x0000C, 0x00010, 0x00014]) ∧
    (refused (.read8 a) ↔
      ¬ ((0x00080 ≤ a ∧ a < 0x000EC) ∨ (0x00100 ≤ a ∧ a < 0x00120) ∨
        (0x10000 ≤ a ∧ a < 0x10000 + vaultSize s.config) ∨
        (0x20000 ≤ a ∧ a < 0x20000 + fileSize s.config))) ∧
    (refused (.write8 a b) ↔
      ¬ ((0x000C0 ≤ a ∧ a < 0x000EC) ∨ (0x00100 ≤ a ∧ a < 0x00120) ∨
        (0x10000 ≤ a ∧ a < 0x10000 + vaultSize s.config) ∨
        (0x20000 ≤ a ∧ a < 0x20000 + fileSize s.config))) ∧
    refused (.read16 a) ∧ refused (.write16 a h)

/-- R32, R190: what a reset leaves, in a run and in `State.reset`; the contents it leaves unspecified are
not spoken of. That the queue, the response, the parameter and the entropy answers outlive a reset is the
model's choice (log entry 3). -/
def Obligations.ResetLeavesDefiniteControlState : Prop :=
  (∀ (s : State) (rest : List HostEvent), s.bus = .reset :: rest →
    ∃ t, step s = .next t ∧
      t.INITED = false ∧ t.POS = 64 ∧ t.RESULT = 0 ∧ t.CTR0 = 0 ∧ t.DPTR = 0 ∧ t.FLEN = 0 ∧
      phase t = .uninitialized ∧ t.bus = rest ∧ t.config = s.config ∧ t.response = s.response ∧
      t.entropy = s.entropy ∧ t.entropyDraws = s.entropyDraws) ∧
  (State.reset.INITED = false ∧ State.reset.POS = 64 ∧ State.reset.RESULT = 0 ∧ State.reset.CTR0 = 0 ∧
    State.reset.DPTR = 0 ∧ State.reset.FLEN = 0 ∧ phase State.reset = .uninitialized)

/-- The large buffers: a write in canonical form keeps it, gives its byte its value and leaves every other
byte alone, and canonical buffers that read alike are equal (the form is the model's, log entry 2). -/
def Obligations.BufferWriteIsExact : Prop :=
  (∀ (m : Memory) (i : Nat) (v : Byte), m.wf →
    (m.write i v).wf ∧ ∀ j, (m.write i v).read j = if j = i then v else m.read j) ∧
  (∀ m k : Memory, m.wf → k.wf → (∀ i, m.read i = k.read i) → m = k)
end

