-- ==== Sys2Proof/Laws/State.lean ====
section
/-! SUPPORT. One lemma per field per shared update of the state, so that no later proof unfolds a record
update. -/

namespace Sys2Proof.Machine

/-! ### raise -/

@[simp] theorem raise_S (e : ResultCode) (s : State) : (raise e s).S = s.S := rfl
@[simp] theorem raise_KS (e : ResultCode) (s : State) : (raise e s).KS = s.KS := rfl
@[simp] theorem raise_POS (e : ResultCode) (s : State) : (raise e s).POS = s.POS := rfl
@[simp] theorem raise_INITED (e : ResultCode) (s : State) : (raise e s).INITED = s.INITED := rfl
@[simp] theorem raise_KEY (e : ResultCode) (s : State) : (raise e s).KEY = s.KEY := rfl
@[simp] theorem raise_NONCE (e : ResultCode) (s : State) : (raise e s).NONCE = s.NONCE := rfl
@[simp] theorem raise_PW (e : ResultCode) (s : State) : (raise e s).PW = s.PW := rfl
@[simp] theorem raise_VM (e : ResultCode) (s : State) : (raise e s).VM = s.VM := rfl
@[simp] theorem raise_FB (e : ResultCode) (s : State) : (raise e s).FB = s.FB := rfl
@[simp] theorem raise_CTR0 (e : ResultCode) (s : State) : (raise e s).CTR0 = s.CTR0 := rfl
@[simp] theorem raise_DPTR (e : ResultCode) (s : State) : (raise e s).DPTR = s.DPTR := rfl
@[simp] theorem raise_FLEN (e : ResultCode) (s : State) : (raise e s).FLEN = s.FLEN := rfl
@[simp] theorem raise_RESULT (e : ResultCode) (s : State) : (raise e s).RESULT = e.code := rfl
@[simp] theorem raise_config (e : ResultCode) (s : State) : (raise e s).config = s.config := rfl
@[simp] theorem raise_bus (e : ResultCode) (s : State) : (raise e s).bus = s.bus := rfl
@[simp] theorem raise_response (e : ResultCode) (s : State) : (raise e s).response = s.response := rfl
@[simp] theorem raise_entropy (e : ResultCode) (s : State) : (raise e s).entropy = s.entropy := rfl
@[simp] theorem raise_entropyDraws (e : ResultCode) (s : State) :
    (raise e s).entropyDraws = s.entropyDraws := rfl
@[simp] theorem raise_resets (e : ResultCode) (s : State) : (raise e s).resets = s.resets := rfl

/-! ### done -/

@[simp] theorem done_S (s : State) : (done s).S = s.S := rfl
@[simp] theorem done_KS (s : State) : (done s).KS = s.KS := rfl
@[simp] theorem done_POS (s : State) : (done s).POS = s.POS := rfl
@[simp] theorem done_INITED (s : State) : (done s).INITED = s.INITED := rfl
@[simp] theorem done_KEY (s : State) : (done s).KEY = s.KEY := rfl
@[simp] theorem done_NONCE (s : State) : (done s).NONCE = s.NONCE := rfl
@[simp] theorem done_PW (s : State) : (done s).PW = s.PW := rfl
@[simp] theorem done_VM (s : State) : (done s).VM = s.VM := rfl
@[simp] theorem done_FB (s : State) : (done s).FB = s.FB := rfl
@[simp] theorem done_CTR0 (s : State) : (done s).CTR0 = s.CTR0 := rfl
@[simp] theorem done_DPTR (s : State) : (done s).DPTR = s.DPTR := rfl
@[simp] theorem done_FLEN (s : State) : (done s).FLEN = s.FLEN := rfl
@[simp] theorem done_RESULT (s : State) : (done s).RESULT = ResultCode.ok.code := rfl
@[simp] theorem done_config (s : State) : (done s).config = s.config := rfl
@[simp] theorem done_bus (s : State) : (done s).bus = s.bus := rfl
@[simp] theorem done_response (s : State) : (done s).response = s.response := rfl
@[simp] theorem done_entropy (s : State) : (done s).entropy = s.entropy := rfl
@[simp] theorem done_entropyDraws (s : State) : (done s).entropyDraws = s.entropyDraws := rfl
@[simp] theorem done_resets (s : State) : (done s).resets = s.resets := rfl

/-! ### takeEntropy -/

@[simp] theorem takeEntropy_S (s : State) : (takeEntropy s).S = s.S := rfl
@[simp] theorem takeEntropy_KS (s : State) : (takeEntropy s).KS = s.KS := rfl
@[simp] theorem takeEntropy_POS (s : State) : (takeEntropy s).POS = s.POS := rfl
@[simp] theorem takeEntropy_INITED (s : State) : (takeEntropy s).INITED = s.INITED := rfl
@[simp] theorem takeEntropy_KEY (s : State) : (takeEntropy s).KEY = s.KEY := rfl
@[simp] theorem takeEntropy_NONCE (s : State) : (takeEntropy s).NONCE = s.NONCE := rfl
@[simp] theorem takeEntropy_PW (s : State) : (takeEntropy s).PW = s.PW := rfl
@[simp] theorem takeEntropy_VM (s : State) : (takeEntropy s).VM = s.VM := rfl
@[simp] theorem takeEntropy_FB (s : State) : (takeEntropy s).FB = s.FB := rfl
@[simp] theorem takeEntropy_CTR0 (s : State) : (takeEntropy s).CTR0 = s.CTR0 := rfl
@[simp] theorem takeEntropy_DPTR (s : State) : (takeEntropy s).DPTR = s.DPTR := rfl
@[simp] theorem takeEntropy_FLEN (s : State) : (takeEntropy s).FLEN = s.FLEN := rfl
@[simp] theorem takeEntropy_RESULT (s : State) : (takeEntropy s).RESULT = s.RESULT := rfl
@[simp] theorem takeEntropy_config (s : State) : (takeEntropy s).config = s.config := rfl
@[simp] theorem takeEntropy_bus (s : State) : (takeEntropy s).bus = s.bus := rfl
@[simp] theorem takeEntropy_response (s : State) : (takeEntropy s).response = s.response := rfl
@[simp] theorem takeEntropy_entropy (s : State) : (takeEntropy s).entropy = s.entropy.tail := rfl
@[simp] theorem takeEntropy_entropyDraws (s : State) :
    (takeEntropy s).entropyDraws = s.entropyDraws + 1 := rfl
@[simp] theorem takeEntropy_resets (s : State) : (takeEntropy s).resets = s.resets := rfl

/-! ### deriveKey -/

@[simp] theorem deriveKey_S (len : Nat) (s : State) : (deriveKey len s).S = s.S := rfl
@[simp] theorem deriveKey_KS (len : Nat) (s : State) : (deriveKey len s).KS = s.KS := rfl
@[simp] theorem deriveKey_POS (len : Nat) (s : State) : (deriveKey len s).POS = s.POS := rfl
@[simp] theorem deriveKey_INITED (len : Nat) (s : State) : (deriveKey len s).INITED = s.INITED := rfl
@[simp] theorem deriveKey_KEY (len : Nat) (s : State) : (deriveKey len s).KEY = derive s.PW len := rfl
@[simp] theorem deriveKey_NONCE (len : Nat) (s : State) : (deriveKey len s).NONCE = s.NONCE := rfl
@[simp] theorem deriveKey_PW (len : Nat) (s : State) : (deriveKey len s).PW = s.PW := rfl
@[simp] theorem deriveKey_VM (len : Nat) (s : State) : (deriveKey len s).VM = s.VM := rfl
@[simp] theorem deriveKey_FB (len : Nat) (s : State) : (deriveKey len s).FB = s.FB := rfl
@[simp] theorem deriveKey_CTR0 (len : Nat) (s : State) : (deriveKey len s).CTR0 = s.CTR0 := rfl
@[simp] theorem deriveKey_DPTR (len : Nat) (s : State) : (deriveKey len s).DPTR = s.DPTR := rfl
@[simp] theorem deriveKey_FLEN (len : Nat) (s : State) : (deriveKey len s).FLEN = s.FLEN := rfl
@[simp] theorem deriveKey_RESULT (len : Nat) (s : State) : (deriveKey len s).RESULT = s.RESULT := rfl
@[simp] theorem deriveKey_config (len : Nat) (s : State) : (deriveKey len s).config = s.config := rfl
@[simp] theorem deriveKey_bus (len : Nat) (s : State) : (deriveKey len s).bus = s.bus := rfl
@[simp] theorem deriveKey_response (len : Nat) (s : State) :
    (deriveKey len s).response = s.response := rfl
@[simp] theorem deriveKey_entropy (len : Nat) (s : State) : (deriveKey len s).entropy = s.entropy := rfl
@[simp] theorem deriveKey_entropyDraws (len : Nat) (s : State) :
    (deriveKey len s).entropyDraws = s.entropyDraws := rfl
@[simp] theorem deriveKey_resets (len : Nat) (s : State) : (deriveKey len s).resets = s.resets := rfl

/-! ### initEngine -/

@[simp] theorem initEngine_S (c : Word) (s : State) :
    (initEngine c s).S = initWords s.KEY s.NONCE c := rfl
@[simp] theorem initEngine_KS (c : Word) (s : State) : (initEngine c s).KS = s.KS := rfl
@[simp] theorem initEngine_POS (c : Word) (s : State) : (initEngine c s).POS = 64 := rfl
@[simp] theorem initEngine_INITED (c : Word) (s : State) : (initEngine c s).INITED = true := rfl
@[simp] theorem initEngine_KEY (c : Word) (s : State) : (initEngine c s).KEY = s.KEY := rfl
@[simp] theorem initEngine_NONCE (c : Word) (s : State) : (initEngine c s).NONCE = s.NONCE := rfl
@[simp] theorem initEngine_PW (c : Word) (s : State) : (initEngine c s).PW = s.PW := rfl
@[simp] theorem initEngine_VM (c : Word) (s : State) : (initEngine c s).VM = s.VM := rfl
@[simp] theorem initEngine_FB (c : Word) (s : State) : (initEngine c s).FB = s.FB := rfl
@[simp] theorem initEngine_CTR0 (c : Word) (s : State) : (initEngine c s).CTR0 = s.CTR0 := rfl
@[simp] theorem initEngine_DPTR (c : Word) (s : State) : (initEngine c s).DPTR = s.DPTR := rfl
@[simp] theorem initEngine_FLEN (c : Word) (s : State) : (initEngine c s).FLEN = s.FLEN := rfl
@[simp] theorem initEngine_RESULT (c : Word) (s : State) : (initEngine c s).RESULT = s.RESULT := rfl
@[simp] theorem initEngine_config (c : Word) (s : State) : (initEngine c s).config = s.config := rfl
@[simp] theorem initEngine_bus (c : Word) (s : State) : (initEngine c s).bus = s.bus := rfl
@[simp] theorem initEngine_response (c : Word) (s : State) :
    (initEngine c s).response = s.response := rfl
@[simp] theorem initEngine_entropy (c : Word) (s : State) : (initEngine c s).entropy = s.entropy := rfl
@[simp] theorem initEngine_entropyDraws (c : Word) (s : State) :
    (initEngine c s).entropyDraws = s.entropyDraws := rfl
@[simp] theorem initEngine_resets (c : Word) (s : State) : (initEngine c s).resets = s.resets := rfl

/-! ### setDatapath -/

@[simp] theorem setDatapath_S (x : Datapath) (s : State) : (setDatapath x s).S = x.S := rfl
@[simp] theorem setDatapath_KS (x : Datapath) (s : State) : (setDatapath x s).KS = x.KS := rfl
@[simp] theorem setDatapath_POS (x : Datapath) (s : State) : (setDatapath x s).POS = x.POS := rfl
@[simp] theorem setDatapath_INITED (x : Datapath) (s : State) :
    (setDatapath x s).INITED = s.INITED := rfl
@[simp] theorem setDatapath_KEY (x : Datapath) (s : State) : (setDatapath x s).KEY = s.KEY := rfl
@[simp] theorem setDatapath_NONCE (x : Datapath) (s : State) : (setDatapath x s).NONCE = s.NONCE := rfl
@[simp] theorem setDatapath_PW (x : Datapath) (s : State) : (setDatapath x s).PW = s.PW := rfl
@[simp] theorem setDatapath_VM (x : Datapath) (s : State) : (setDatapath x s).VM = s.VM := rfl
@[simp] theorem setDatapath_FB (x : Datapath) (s : State) : (setDatapath x s).FB = x.FB := rfl
@[simp] theorem setDatapath_CTR0 (x : Datapath) (s : State) : (setDatapath x s).CTR0 = s.CTR0 := rfl
@[simp] theorem setDatapath_DPTR (x : Datapath) (s : State) : (setDatapath x s).DPTR = s.DPTR := rfl
@[simp] theorem setDatapath_FLEN (x : Datapath) (s : State) : (setDatapath x s).FLEN = s.FLEN := rfl
@[simp] theorem setDatapath_RESULT (x : Datapath) (s : State) :
    (setDatapath x s).RESULT = s.RESULT := rfl
@[simp] theorem setDatapath_config (x : Datapath) (s : State) :
    (setDatapath x s).config = s.config := rfl
@[simp] theorem setDatapath_bus (x : Datapath) (s : State) : (setDatapath x s).bus = s.bus := rfl
@[simp] theorem setDatapath_response (x : Datapath) (s : State) :
    (setDatapath x s).response = s.response := rfl
@[simp] theorem setDatapath_entropy (x : Datapath) (s : State) :
    (setDatapath x s).entropy = s.entropy := rfl
@[simp] theorem setDatapath_entropyDraws (x : Datapath) (s : State) :
    (setDatapath x s).entropyDraws = s.entropyDraws := rfl
@[simp] theorem setDatapath_resets (x : Datapath) (s : State) :
    (setDatapath x s).resets = s.resets := rfl

/-! ### discard -/

@[simp] theorem discard_S (s : State) : (discard s).S = Vector.replicate 16 0 := rfl
@[simp] theorem discard_KS (s : State) : (discard s).KS = Vector.replicate 64 0 := rfl
@[simp] theorem discard_POS (s : State) : (discard s).POS = 64 := rfl
@[simp] theorem discard_INITED (s : State) : (discard s).INITED = false := rfl
@[simp] theorem discard_KEY (s : State) : (discard s).KEY = Vector.replicate 32 0 := rfl
@[simp] theorem discard_NONCE (s : State) : (discard s).NONCE = s.NONCE := rfl
@[simp] theorem discard_PW (s : State) : (discard s).PW = s.PW := rfl
@[simp] theorem discard_VM (s : State) : (discard s).VM = s.VM := rfl
@[simp] theorem discard_FB (s : State) : (discard s).FB = s.FB := rfl
@[simp] theorem discard_CTR0 (s : State) : (discard s).CTR0 = s.CTR0 := rfl
@[simp] theorem discard_DPTR (s : State) : (discard s).DPTR = s.DPTR := rfl
@[simp] theorem discard_FLEN (s : State) : (discard s).FLEN = s.FLEN := rfl
@[simp] theorem discard_RESULT (s : State) : (discard s).RESULT = s.RESULT := rfl
@[simp] theorem discard_config (s : State) : (discard s).config = s.config := rfl
@[simp] theorem discard_bus (s : State) : (discard s).bus = s.bus := rfl
@[simp] theorem discard_response (s : State) : (discard s).response = s.response := rfl
@[simp] theorem discard_entropy (s : State) : (discard s).entropy = s.entropy := rfl
@[simp] theorem discard_entropyDraws (s : State) : (discard s).entropyDraws = s.entropyDraws := rfl
@[simp] theorem discard_resets (s : State) : (discard s).resets = s.resets := rfl

/-! ### layImage -/

@[simp] theorem layImage_S (s : State) : (layImage s).S = s.S := rfl
@[simp] theorem layImage_KS (s : State) : (layImage s).KS = s.KS := rfl
@[simp] theorem layImage_POS (s : State) : (layImage s).POS = s.POS := rfl
@[simp] theorem layImage_INITED (s : State) : (layImage s).INITED = s.INITED := rfl
@[simp] theorem layImage_KEY (s : State) : (layImage s).KEY = s.KEY := rfl
@[simp] theorem layImage_NONCE (s : State) : (layImage s).NONCE = s.NONCE := rfl
@[simp] theorem layImage_PW (s : State) : (layImage s).PW = s.PW := rfl
@[simp] theorem layImage_VM (s : State) : (layImage s).VM = s.VM := rfl
@[simp] theorem layImage_FB (s : State) :
    (layImage s).FB = (s.FB.writeRun 0 12 (byteAt s.NONCE)).writeRun cipherOffset (vaultSize s.config) s.VM.read := rfl
@[simp] theorem layImage_CTR0 (s : State) : (layImage s).CTR0 = s.CTR0 := rfl
@[simp] theorem layImage_DPTR (s : State) : (layImage s).DPTR = s.DPTR := rfl
@[simp] theorem layImage_FLEN (s : State) : (layImage s).FLEN = s.FLEN := rfl
@[simp] theorem layImage_RESULT (s : State) : (layImage s).RESULT = s.RESULT := rfl
@[simp] theorem layImage_config (s : State) : (layImage s).config = s.config := rfl
@[simp] theorem layImage_bus (s : State) : (layImage s).bus = s.bus := rfl
@[simp] theorem layImage_response (s : State) : (layImage s).response = s.response := rfl
@[simp] theorem layImage_entropy (s : State) : (layImage s).entropy = s.entropy := rfl
@[simp] theorem layImage_entropyDraws (s : State) : (layImage s).entropyDraws = s.entropyDraws := rfl
@[simp] theorem layImage_resets (s : State) : (layImage s).resets = s.resets := rfl

/-! ### loadVault -/

@[simp] theorem loadVault_S (s : State) : (loadVault s).S = s.S := rfl
@[simp] theorem loadVault_KS (s : State) : (loadVault s).KS = s.KS := rfl
@[simp] theorem loadVault_POS (s : State) : (loadVault s).POS = s.POS := rfl
@[simp] theorem loadVault_INITED (s : State) : (loadVault s).INITED = s.INITED := rfl
@[simp] theorem loadVault_KEY (s : State) : (loadVault s).KEY = s.KEY := rfl
@[simp] theorem loadVault_NONCE (s : State) : (loadVault s).NONCE = s.NONCE := rfl
@[simp] theorem loadVault_PW (s : State) : (loadVault s).PW = s.PW := rfl
@[simp] theorem loadVault_VM (s : State) :
    (loadVault s).VM = s.VM.writeRun 0 (vaultSize s.config) fun i => s.FB.read (cipherOffset + i) := rfl
@[simp] theorem loadVault_FB (s : State) : (loadVault s).FB = s.FB := rfl
@[simp] theorem loadVault_CTR0 (s : State) : (loadVault s).CTR0 = s.CTR0 := rfl
@[simp] theorem loadVault_DPTR (s : State) : (loadVault s).DPTR = s.DPTR := rfl
@[simp] theorem loadVault_FLEN (s : State) : (loadVault s).FLEN = s.FLEN := rfl
@[simp] theorem loadVault_RESULT (s : State) : (loadVault s).RESULT = s.RESULT := rfl
@[simp] theorem loadVault_config (s : State) : (loadVault s).config = s.config := rfl
@[simp] theorem loadVault_bus (s : State) : (loadVault s).bus = s.bus := rfl
@[simp] theorem loadVault_response (s : State) : (loadVault s).response = s.response := rfl
@[simp] theorem loadVault_entropy (s : State) : (loadVault s).entropy = s.entropy := rfl
@[simp] theorem loadVault_entropyDraws (s : State) : (loadVault s).entropyDraws = s.entropyDraws := rfl
@[simp] theorem loadVault_resets (s : State) : (loadVault s).resets = s.resets := rfl

/-! ### applyReset -/

@[simp] theorem applyReset_S (s : State) :
    (applyReset s).S = Vector.ofFn fun i => Config.resetWord s i.val := rfl
@[simp] theorem applyReset_KS (s : State) :
    (applyReset s).KS = Vector.ofFn fun i => Config.resetByte s .KS i.val := rfl
@[simp] theorem applyReset_POS (s : State) : (applyReset s).POS = 64 := rfl
@[simp] theorem applyReset_INITED (s : State) : (applyReset s).INITED = false := rfl
@[simp] theorem applyReset_KEY (s : State) :
    (applyReset s).KEY = Vector.ofFn fun i => Config.resetByte s .KEY i.val := rfl
@[simp] theorem applyReset_NONCE (s : State) :
    (applyReset s).NONCE = Vector.ofFn fun i => Config.resetByte s .NONCE i.val := rfl
@[simp] theorem applyReset_PW (s : State) :
    (applyReset s).PW = Vector.ofFn fun i => Config.resetByte s .PW i.val := rfl
@[simp] theorem applyReset_VM (s : State) :
    (applyReset s).VM = Memory.writeRun [] 0 (vaultSize s.config) (Config.resetByte s .VM) := rfl
@[simp] theorem applyReset_FB (s : State) :
    (applyReset s).FB = Memory.writeRun [] 0 (fileSize s.config) (Config.resetByte s .FB) := rfl
@[simp] theorem applyReset_CTR0 (s : State) : (applyReset s).CTR0 = 0 := rfl
@[simp] theorem applyReset_DPTR (s : State) : (applyReset s).DPTR = 0 := rfl
@[simp] theorem applyReset_FLEN (s : State) : (applyReset s).FLEN = 0 := rfl
@[simp] theorem applyReset_RESULT (s : State) : (applyReset s).RESULT = 0 := rfl
@[simp] theorem applyReset_config (s : State) : (applyReset s).config = s.config := rfl
@[simp] theorem applyReset_bus (s : State) : (applyReset s).bus = s.bus := rfl
@[simp] theorem applyReset_response (s : State) : (applyReset s).response = s.response := rfl
@[simp] theorem applyReset_entropy (s : State) : (applyReset s).entropy = s.entropy := rfl
@[simp] theorem applyReset_entropyDraws (s : State) :
    (applyReset s).entropyDraws = s.entropyDraws := rfl
@[simp] theorem applyReset_resets (s : State) : (applyReset s).resets = s.resets + 1 := rfl

/-! ### delivered -/

@[simp] theorem delivered_S (r : BusResponse) (s : State) : (delivered r s).S = s.S := rfl
@[simp] theorem delivered_KS (r : BusResponse) (s : State) : (delivered r s).KS = s.KS := rfl
@[simp] theorem delivered_POS (r : BusResponse) (s : State) : (delivered r s).POS = s.POS := rfl
@[simp] theorem delivered_INITED (r : BusResponse) (s : State) :
    (delivered r s).INITED = s.INITED := rfl
@[simp] theorem delivered_KEY (r : BusResponse) (s : State) : (delivered r s).KEY = s.KEY := rfl
@[simp] theorem delivered_NONCE (r : BusResponse) (s : State) : (delivered r s).NONCE = s.NONCE := rfl
@[simp] theorem delivered_PW (r : BusResponse) (s : State) : (delivered r s).PW = s.PW := rfl
@[simp] theorem delivered_VM (r : BusResponse) (s : State) : (delivered r s).VM = s.VM := rfl
@[simp] theorem delivered_FB (r : BusResponse) (s : State) : (delivered r s).FB = s.FB := rfl
@[simp] theorem delivered_CTR0 (r : BusResponse) (s : State) : (delivered r s).CTR0 = s.CTR0 := rfl
@[simp] theorem delivered_DPTR (r : BusResponse) (s : State) : (delivered r s).DPTR = s.DPTR := rfl
@[simp] theorem delivered_FLEN (r : BusResponse) (s : State) : (delivered r s).FLEN = s.FLEN := rfl
@[simp] theorem delivered_RESULT (r : BusResponse) (s : State) :
    (delivered r s).RESULT = s.RESULT := rfl
@[simp] theorem delivered_config (r : BusResponse) (s : State) :
    (delivered r s).config = s.config := rfl
@[simp] theorem delivered_bus (r : BusResponse) (s : State) : (delivered r s).bus = s.bus := rfl
@[simp] theorem delivered_response (r : BusResponse) (s : State) : (delivered r s).response = r := rfl
@[simp] theorem delivered_entropy (r : BusResponse) (s : State) :
    (delivered r s).entropy = s.entropy := rfl
@[simp] theorem delivered_entropyDraws (r : BusResponse) (s : State) :
    (delivered r s).entropyDraws = s.entropyDraws := rfl
@[simp] theorem delivered_resets (r : BusResponse) (s : State) :
    (delivered r s).resets = s.resets := rfl

/-! ### The datapath's part -/

@[simp] theorem datapathOf_S (s : State) : (datapathOf s).S = s.S := rfl
@[simp] theorem datapathOf_KS (s : State) : (datapathOf s).KS = s.KS := rfl
@[simp] theorem datapathOf_POS (s : State) : (datapathOf s).POS = s.POS := rfl
@[simp] theorem datapathOf_FB (s : State) : (datapathOf s).FB = s.FB := rfl
@[simp] theorem datapathOf_setDatapath (x : Datapath) (s : State) : datapathOf (setDatapath x s) = x := rfl
@[simp] theorem setDatapath_datapathOf (s : State) : setDatapath (datapathOf s) s = s := rfl
@[simp] theorem generate_S (x : Datapath) : (generate x).S = advance x.S := rfl
@[simp] theorem generate_KS (x : Datapath) : (generate x).KS = block x.S := rfl
@[simp] theorem generate_POS (x : Datapath) : (generate x).POS = x.POS := rfl
@[simp] theorem generate_FB (x : Datapath) : (generate x).FB = x.FB := rfl

end Sys2Proof.Machine
end

