-- ==== Sys2Proof/Laws/Memory.lean ====
section
/-! SUPPORT. The laws of the large buffers: read after write, and the canonical form, which every
operation keeps. -/

namespace Sys2Proof.Machine.Memory

@[simp] theorem read_nil (i : Nat) : read [] i = unlisted := rfl

theorem read_cons (b : Nat) (u : Byte) (m : Memory) (i : Nat) :
    read ((b, u) :: m) i = if b = i then u else read m i := rfl

theorem wf_nil : wf [] := ⟨List.Pairwise.nil, by simp⟩

theorem within_nil (size : Nat) : within [] size := by simp [within]

theorem wf_cons {b : Nat} {u : Byte} {m : Memory} :
    wf ((b, u) :: m) ↔ (∀ c ∈ m, b < c.1) ∧ u ≠ unlisted ∧ wf m := by
  simp only [wf, List.pairwise_cons, List.mem_cons, forall_eq_or_imp]
  tauto

/-- A byte whose index is not listed reads as the unlisted byte. -/
theorem read_of_not_listed {m : Memory} {i : Nat} (h : ∀ c ∈ m, c.1 ≠ i) : read m i = unlisted := by
  induction m with
  | nil => rfl
  | cons c m ih =>
    obtain ⟨b, u⟩ := c
    rw [read_cons, if_neg (h _ List.mem_cons_self)]
    exact ih fun c hc => h c (List.mem_cons_of_mem _ hc)

/-- Where a cell of the written buffer comes from. -/
theorem mem_write {m : Memory} {i : Nat} {v : Byte} {c : Host.Cell} (h : c ∈ write m i v) :
    c ∈ m ∨ (c = (i, v) ∧ v ≠ unlisted) := by
  induction m with
  | nil =>
    simp only [write] at h
    split at h <;> simp_all
  | cons d m ih =>
    obtain ⟨b, u⟩ := d
    simp only [write] at h
    split at h
    · rcases List.mem_cons.mp h with rfl | h
      · exact .inl List.mem_cons_self
      · exact (ih h).imp_left (List.mem_cons_of_mem _)
    · split at h <;> split at h <;> simp_all <;> tauto

/-- A write keeps the canonical form. -/
theorem wf_write {m : Memory} (h : wf m) (i : Nat) (v : Byte) : wf (write m i v) := by
  induction m with
  | nil =>
    simp only [write]
    split <;> simp_all [wf]
  | cons d m ih =>
    obtain ⟨b, u⟩ := d
    have hm := wf_cons.mp h
    simp only [write]
    split
    · refine wf_cons.mpr ⟨fun c hc => ?_, hm.2.1, ih hm.2.2⟩
      rcases mem_write hc with hc | ⟨rfl, -⟩
      · exact hm.1 c hc
      · assumption
    · split
      · split
        · exact hm.2.2
        · subst b
          exact wf_cons.mpr ⟨hm.1, by assumption, hm.2.2⟩
      · split
        · exact h
        · refine wf_cons.mpr ⟨fun c hc => ?_, by assumption, h⟩
          rcases List.mem_cons.mp hc with rfl | hc
          · show i < b; omega
          · have := hm.1 c hc; omega

theorem within_write {m : Memory} {size i : Nat} (h : within m size) (hi : i < size) (v : Byte) :
    within (write m i v) size := by
  intro c hc
  rcases mem_write hc with hc | ⟨rfl, -⟩
  · exact h c hc
  · exact hi

/-- A write leaves every other byte alone. -/
theorem read_write_other (m : Memory) {i j : Nat} (v : Byte) (hij : j ≠ i) :
    read (write m i v) j = read m j := by
  induction m with
  | nil =>
    simp only [write]
    split
    · rfl
    · rw [read_cons, if_neg (Ne.symm hij)]
  | cons d m ih =>
    obtain ⟨b, u⟩ := d
    simp only [write]
    split
    · simp only [read_cons, ih]
    · split
      · subst b
        split <;> simp [read_cons, Ne.symm hij]
      · split <;> simp [read_cons, Ne.symm hij]

/-- A byte reads as it was written. -/
theorem read_write_same {m : Memory} (h : wf m) (i : Nat) (v : Byte) : read (write m i v) i = v := by
  induction m with
  | nil =>
    simp only [write]
    split
    · simp_all
    · simp [read_cons]
  | cons d m ih =>
    obtain ⟨b, u⟩ := d
    have hm := wf_cons.mp h
    simp only [write]
    split
    · next hlt => rw [read_cons, if_neg (by omega)]; exact ih hm.2.2
    · split
      · subst b
        split
        · next hv =>
          rw [hv]; exact read_of_not_listed fun c hc => by have := hm.1 c hc; omega
        · simp [read_cons]
      · split
        · next hb _ hv =>
          rw [hv]
          refine read_of_not_listed fun c hc => ?_
          rcases List.mem_cons.mp hc with rfl | hc
          · assumption
          · have := hm.1 c hc; omega
        · simp [read_cons]

theorem read_write {m : Memory} (h : wf m) (i j : Nat) (v : Byte) :
    read (write m i v) j = if j = i then v else read m j := by
  split
  · subst j; exact read_write_same h i v
  · exact read_write_other m v (by assumption)

theorem wf_writeRun {m : Memory} (h : wf m) (a n : Nat) (f : Nat → Byte) : wf (writeRun m a n f) := by
  induction n with
  | zero => exact h
  | succ n ih => exact wf_write ih _ _

theorem within_writeRun {m : Memory} {size : Nat} (h : within m size) (a n : Nat) (f : Nat → Byte)
    (ha : a + n ≤ size) : within (writeRun m a n f) size := by
  induction n with
  | zero => exact h
  | succ n ih => exact within_write (ih (by omega)) (by omega) _

/-- What a run of writes leaves: its own bytes, and every other byte as before. -/
theorem read_writeRun {m : Memory} (h : wf m) (a n : Nat) (f : Nat → Byte) (j : Nat) :
    read (writeRun m a n f) j = if a ≤ j ∧ j < a + n then f (j - a) else read m j := by
  induction n with
  | zero => simp [writeRun]
  | succ n ih =>
    rw [writeRun, read_write (wf_writeRun h a n f), ih]
    by_cases hj : j = a + n
    · subst hj; simp
    · rw [if_neg hj]
      by_cases hr : a ≤ j ∧ j < a + n
      · rw [if_pos hr, if_pos (by omega)]
      · rw [if_neg hr, if_neg (by omega)]

/-- Buffers in canonical form that read alike are equal data. -/
theorem ext_of_read {m k : Memory} (hm : wf m) (hk : wf k) (h : ∀ i, read m i = read k i) : m = k := by
  induction m generalizing k with
  | nil =>
    cases k with
    | nil => rfl
    | cons d k =>
      obtain ⟨b, u⟩ := d
      exact absurd (by simpa [read_cons] using (h b).symm) (wf_cons.mp hk).2.1
  | cons d m ih =>
    obtain ⟨b, u⟩ := d
    have hm' := wf_cons.mp hm
    cases k with
    | nil => exact absurd (by simpa [read_cons] using h b) hm'.2.1
    | cons e k =>
      obtain ⟨c, w⟩ := e
      have hk' := wf_cons.mp hk
      have hmb : ∀ i, i ≤ b → read m i = unlisted := fun i hi =>
        read_of_not_listed fun x hx => by have := hm'.1 x hx; omega
      have hkc : ∀ i, i ≤ c → read k i = unlisted := fun i hi =>
        read_of_not_listed fun x hx => by have := hk'.1 x hx; omega
      have hbc : b = c := by
        rcases Nat.lt_trichotomy b c with hlt | heq | hgt
        · have := h b
          rw [read_cons, read_cons, if_pos rfl, if_neg (by omega), hkc b (by omega)] at this
          exact absurd this hm'.2.1
        · exact heq
        · have := h c
          rw [read_cons, read_cons, if_pos rfl, if_neg (by omega), hmb c (by omega)] at this
          exact absurd this.symm hk'.2.1
      subst c
      have huw : u = w := by simpa [read_cons] using h b
      subst w
      congr 1
      refine ih hm'.2.2 hk'.2.2 fun i => ?_
      have := h i
      rw [read_cons, read_cons] at this
      by_cases hi : b = i
      · rw [hmb i (by omega), hkc i (by omega)]
      · simpa [hi] using this

end Sys2Proof.Machine.Memory
end

