-- ==== Sys2Proof/Laws/Engine.lean ====
section
/-! SUPPORT. The engine's counter: what ADVANCE does to each word, and that stepping it `j` times is the
closed form of 41_chacha20_engine.md R109. -/

namespace Sys2Proof.Machine

theorem counterState_12 (s : Vector Word 16) (j : Nat) :
    (counterState s j)[12] = BitVec.ofNat 32 (s[12].toNat + j) := by
  simp [counterState]

theorem counterState_13 (s : Vector Word 16) (j : Nat) :
    (counterState s j)[13] = BitVec.ofNat 32 (s[13].toNat + (s[12].toNat + j) / 2 ^ 32) := by
  simp [counterState]

theorem counterState_other (s : Vector Word 16) (j i : Nat) (hi : i < 16) (h12 : i ≠ 12) (h13 : i ≠ 13) :
    (counterState s j)[i] = s[i] := by
  simp [counterState, Ne.symm h12, Ne.symm h13]

theorem counterState_zero (s : Vector Word 16) : counterState s 0 = s := by
  apply Vector.ext
  intro i hi
  by_cases h12 : i = 12
  · subst h12; rw [counterState_12]; simp
  · by_cases h13 : i = 13
    · subst h13
      rw [counterState_13, Nat.div_eq_of_lt (by have := s[12].isLt; omega)]; simp
    · exact counterState_other s 0 i hi h12 h13

/-- The counter word after one ADVANCE (R105). -/
theorem advance_12 (s : Vector Word 16) : (advance s)[12] = s[12] + 1 := by
  unfold advance
  dsimp only
  split <;> simp

/-- The carry of ADVANCE (R105). -/
theorem advance_13 (s : Vector Word 16) :
    (advance s)[13] = if s[12] + 1 = 0 then s[13] + 1 else s[13] := by
  unfold advance
  simp only [Vector.getElem_set_self]
  split <;> simp

/-- ADVANCE writes no other word (R105). -/
theorem advance_other (s : Vector Word 16) (i : Nat) (hi : i < 16) (h12 : i ≠ 12) (h13 : i ≠ 13) :
    (advance s)[i] = s[i] := by
  unfold advance
  dsimp only
  split <;> simp [Ne.symm h12, Ne.symm h13]

/-- One ADVANCE is one block further in R109's closed form. -/
theorem advance_counterState (s : Vector Word 16) (j : Nat) :
    advance (counterState s j) = counterState s (j + 1) := by
  apply Vector.ext
  intro i hi
  by_cases h12 : i = 12
  · subst h12
    rw [advance_12, counterState_12, counterState_12]
    apply BitVec.eq_of_toNat_eq
    simp only [BitVec.toNat_add, BitVec.ofNat_eq_ofNat, BitVec.toNat_ofNat]
    omega
  · by_cases h13 : i = 13
    · subst h13
      rw [advance_13, counterState_12, counterState_13, counterState_13]
      split
      · next h =>
        have h' := congrArg BitVec.toNat h
        simp only [BitVec.toNat_add, BitVec.ofNat_eq_ofNat, BitVec.toNat_ofNat] at h'
        apply BitVec.eq_of_toNat_eq
        simp only [BitVec.toNat_add, BitVec.ofNat_eq_ofNat, BitVec.toNat_ofNat]
        omega
      · next h =>
        have h' : ¬ (s[12].toNat + j + 1) % 2 ^ 32 = 0 := fun hz => h (by
          apply BitVec.eq_of_toNat_eq
          simp only [BitVec.toNat_add, BitVec.ofNat_eq_ofNat, BitVec.toNat_ofNat]
          omega)
        apply BitVec.eq_of_toNat_eq
        simp only [BitVec.toNat_ofNat]
        omega
    · rw [advance_other _ i hi h12 h13, counterState_other _ _ i hi h12 h13,
        counterState_other _ _ i hi h12 h13]

/-- Stepping the counter `j` times is R109's closed form. -/
theorem iterate_advance (s : Vector Word 16) (j : Nat) : advance^[j] s = counterState s j := by
  induction j with
  | zero => exact (counterState_zero s).symm
  | succ j ih => rw [Function.iterate_succ_apply', ih, advance_counterState]

theorem advance_eq_counterState (s : Vector Word 16) : advance s = counterState s 1 := by
  have := advance_counterState s 0
  rwa [counterState_zero] at this

/-- Every block generation after the first starts from R109's state. -/
theorem iterate_generate_S (x : Datapath) (j : Nat) : (generate^[j] x).S = counterState x.S j := by
  induction j with
  | zero => simp [counterState_zero]
  | succ j ih => rw [Function.iterate_succ_apply', generate_S, ih, advance_counterState]

theorem initWords_get (key : Vector Byte 32) (nonce : Vector Byte 12) (c : Word) (i : Nat) (hi : i < 16) :
    (initWords key nonce c)[i] = initWord key nonce c i := by
  simp [initWords]

theorem initWords_counter (key : Vector Byte 32) (nonce : Vector Byte 12) (c : Word) :
    (initWords key nonce c)[12] = c := by
  rw [initWords_get]
  rfl

/-- The counter operand reaches word 12 only (R106). -/
theorem initWord_counter_irrel (key : Vector Byte 32) (nonce : Vector Byte 12) (c d : Word) {i : Nat}
    (h : i ≠ 12) : initWord key nonce c i = initWord key nonce d i := by
  unfold initWord
  simp only [if_neg h]

/-- The stream of an image: as long as the counter has not wrapped, block `j` is the state INIT would load
with counter `j` (43_vault_codec.md R132). -/
theorem counterState_initWords_zero (key : Vector Byte 32) (nonce : Vector Byte 12) {j : Nat}
    (hj : j < 2 ^ 32) :
    counterState (initWords key nonce 0) j = initWords key nonce (BitVec.ofNat 32 j) := by
  have hc : (initWords key nonce 0)[12] = 0 := initWords_counter key nonce 0
  apply Vector.ext
  intro i hi
  by_cases h12 : i = 12
  · subst h12
    rw [counterState_12, hc, initWords_counter]
    simp
  · by_cases h13 : i = 13
    · subst h13
      rw [counterState_13, hc, show (0 : Word).toNat = 0 from rfl, Nat.zero_add,
        Nat.div_eq_of_lt hj, Nat.add_zero, BitVec.ofNat_toNat, BitVec.setWidth_eq, initWords_get,
        initWords_get]
      exact initWord_counter_irrel key nonce _ _ (by decide)
    · rw [counterState_other _ _ i hi h12 h13, initWords_get, initWords_get]
      exact initWord_counter_irrel key nonce _ _ h12

end Sys2Proof.Machine
end

