-- ==== Sys2Proof/Laws/Stream.lean ====
section
/-! SUPPORT. What `XOR_BYTES(off, n)` leaves, said once: the cursor, the cipher state, the current block,
every byte of `FB`, and that nothing else changes (42_xor_stream.md R120). -/

namespace Sys2Proof.Machine

theorem xorBytes_zero (off : Nat) (x : Datapath) : xorBytes off 0 x = x := rfl

theorem xorBytes_succ (off n : Nat) (x : Datapath) :
    xorBytes off (n + 1) x = xorByte (off + n) (xorBytes off n x) := rfl

/-- Two runs of bytes, one after the other, are one run (R123). -/
theorem xorBytes_add (off a b : Nat) (x : Datapath) :
    xorBytes off (a + b) x = xorBytes (off + a) b (xorBytes off a x) := by
  induction b with
  | zero => rfl
  | succ b ih => rw [← Nat.add_assoc, xorBytes_succ, xorBytes_succ, ih, Nat.add_assoc off a b]

theorem refill_FB (x : Datapath) : (refill x).FB = x.FB := by
  unfold refill
  split <;> rfl

theorem xorByte_FB (a : Nat) (x : Datapath) :
    (xorByte a x).FB = x.FB.write a (x.FB.read a ^^^ byteAt (refill x).KS (refill x).POS.toNat) := by
  show (refill x).FB.write _ ((refill x).FB.read _ ^^^ _) = _
  rw [refill_FB]

/-- XOR_BYTES lists no byte outside the range it is given. -/
theorem xorBytes_within {off n size : Nat} {x : Datapath} (h : x.FB.within size) (hn : off + n ≤ size) :
    (xorBytes off n x).FB.within size := by
  induction n with
  | zero => exact h
  | succ n ih =>
    rw [xorBytes_succ, xorByte_FB]
    exact Memory.within_write (ih (by omega)) (by omega) _

/-- XOR_BYTES writes no cipher-state word but `S[12]` and `S[13]` (R12, R120). -/
theorem xorBytes_S_other (off n : Nat) (x : Datapath) (i : Nat) (hi : i < 16) (h12 : i ≠ 12)
    (h13 : i ≠ 13) : (xorBytes off n x).S[i] = x.S[i] := by
  induction n with
  | zero => rfl
  | succ n ih =>
    rw [xorBytes_succ, ← ih]
    show (refill (xorBytes off n x)).S[i] = _
    unfold refill
    split
    · exact advance_other _ i hi h12 h13
    · rfl

theorem generations_zero (pos : Nat) : generations pos 0 = 0 := by simp [generations]

/-- The number of generated blocks is the number of block boundaries the last byte lies past. -/
theorem generations_succ {pos : Nat} (h : pos ≤ 64) (n : Nat) : generations pos (n + 1) = (pos + n) / 64 := by
  unfold generations
  split <;> omega

/-- What the stream datapath has done after `n` bytes. -/
structure StreamEffect (off n : Nat) (s t : Datapath) : Prop where
  /-- R16's formula for the cursor. -/
  cursor : t.POS.toNat = if n = 0 then s.POS.toNat else (s.POS.toNat + n - 1) % 64 + 1
  words : t.S = counterState s.S (generations s.POS.toNat n)
  current : t.KS = if generations s.POS.toNat n = 0 then s.KS
    else block (counterState s.S (generations s.POS.toNat n - 1))
  canonical : t.FB.wf
  bytes : ∀ a, t.FB.read a =
    if off ≤ a ∧ a < off + n then s.FB.read a ^^^ streamByte s (a - off) else s.FB.read a

/-- The state of the engine just before byte `n` is XORed: the cursor is inside the block that holds it. -/
theorem refill_effect {off n : Nat} {s t : Datapath} (hs : s.POS.toNat ≤ 64) (h : StreamEffect off n s t) :
    (refill t).POS.toNat = (s.POS.toNat + n) % 64 ∧
    (refill t).S = counterState s.S (generations s.POS.toNat (n + 1)) ∧
    (refill t).KS = (if generations s.POS.toNat (n + 1) = 0 then s.KS
      else block (counterState s.S (generations s.POS.toNat (n + 1) - 1))) ∧
    (refill t).FB = t.FB := by
  have hc := h.cursor
  have hg := generations_succ hs n
  have hS := h.words
  have hK := h.current
  have hprev : generations s.POS.toNat n = if n = 0 then 0 else (s.POS.toNat + n - 1) / 64 := by
    cases n with
    | zero => simp [generations_zero]
    | succ m => rw [generations_succ hs, if_neg (by omega)]; rfl
  unfold refill
  split
  · next hp =>
    have hnext : generations s.POS.toNat (n + 1) = generations s.POS.toNat n + 1 := by
      rw [hg, hprev]
      by_cases hn : n = 0
      · rw [if_pos hn] at hc ⊢
        omega
      · rw [if_neg hn] at hc ⊢
        omega
    refine ⟨?_, ?_, ?_, rfl⟩
    · show (0 : BitVec 7).toNat = _
      rw [show (0 : BitVec 7).toNat = 0 from rfl]
      split at hc <;> omega
    · show (generate t).S = _
      rw [generate_S, hS, advance_counterState, hnext]
    · show (generate t).KS = _
      rw [generate_KS, hS, hnext, if_neg (by omega), Nat.add_sub_cancel]
  · next hp =>
    have hsame : generations s.POS.toNat (n + 1) = generations s.POS.toNat n := by
      rw [hg, hprev]
      by_cases hn : n = 0
      · rw [if_pos hn] at hc ⊢
        omega
      · rw [if_neg hn] at hc ⊢
        omega
    refine ⟨?_, ?_, ?_, rfl⟩
    · split at hc <;> omega
    · rw [hS, hsame]
    · rw [hK, hsame]

/-- The keystream byte at the cursor is the stream's byte number `n`. -/
theorem streamByte_eq {s : Datapath} (hs : s.POS.toNat ≤ 64) (n : Nat) :
    streamByte s n = byteAt (if generations s.POS.toNat (n + 1) = 0 then s.KS
      else block (counterState s.S (generations s.POS.toNat (n + 1) - 1))) ((s.POS.toNat + n) % 64) := by
  have hg := generations_succ hs n
  unfold streamByte
  dsimp only
  split
  · next h =>
    have h0 : generations s.POS.toNat (n + 1) = 0 := by omega
    rw [if_pos h0, Nat.mod_eq_of_lt h]
  · next h =>
    have h0 : generations s.POS.toNat (n + 1) ≠ 0 := by omega
    have h1 : (s.POS.toNat + n - 64) / 64 = generations s.POS.toNat (n + 1) - 1 := by omega
    have h2 : (s.POS.toNat + n - 64) % 64 = (s.POS.toNat + n) % 64 := by omega
    rw [if_neg h0, h1, h2]

/-- XOR_BYTES on `n` bytes, from any legal cursor (R120, R123). -/
theorem xorBytes_effect (off n : Nat) {s : Datapath} (hs : s.POS.toNat ≤ 64) (hf : s.FB.wf) :
    StreamEffect off n s (xorBytes off n s) := by
  induction n with
  | zero =>
    exact {
      cursor := by simp [xorBytes_zero]
      words := by rw [generations_zero, counterState_zero, xorBytes_zero]
      current := by simp [generations_zero, xorBytes_zero]
      canonical := hf
      bytes := fun a => by rw [if_neg (by omega), xorBytes_zero] }
  | succ n ih =>
    obtain ⟨hp, hS, hK, hF⟩ := refill_effect hs ih
    have hbyte : byteAt (refill (xorBytes off n s)).KS (refill (xorBytes off n s)).POS.toNat
        = streamByte s n := by rw [hp, hK, streamByte_eq hs]
    rw [xorBytes_succ]
    exact {
      cursor := by
        show ((refill (xorBytes off n s)).POS + 1).toNat = _
        rw [BitVec.toNat_add, hp, if_neg (by omega), show (1 : BitVec 7).toNat = 1 from rfl]
        omega
      words := hS
      current := hK
      canonical := by
        show ((refill (xorBytes off n s)).FB.write _ _).wf
        rw [hF]
        exact Memory.wf_write ih.canonical _ _
      bytes := fun a => by
        show ((refill (xorBytes off n s)).FB.write _ _).read a = _
        rw [hF, hbyte, Memory.read_write ih.canonical, ih.bytes, ih.bytes]
        by_cases ha : a = off + n
        · subst ha
          rw [if_pos rfl, if_neg (by omega), if_pos (by omega), Nat.add_sub_cancel_left]
        · rw [if_neg ha]
          by_cases hr : off ≤ a ∧ a < off + n
          · rw [if_pos hr, if_pos (by omega)]
          · rw [if_neg hr, if_neg (by omega)] }

/-- At an exhausted cursor the old keystream block is replaced before it is read (R120). -/
theorem xorBytes_KS_irrel (off : Nat) {n : Nat} (hn : 0 < n) {x : Datapath} (h : x.POS = 64)
    (k : Vector Byte 64) : xorBytes off n { x with KS := k } = xorBytes off n x := by
  have hr : refill { x with KS := k } = refill x := by
    unfold refill
    rw [if_pos (by simp [h]), if_pos (by simp [h])]
    rfl
  induction n with
  | zero => omega
  | succ n ih =>
    rw [xorBytes_succ, xorBytes_succ]
    by_cases h0 : n = 0
    · subst h0
      unfold xorByte xorBytes
      rw [hr]
    · rw [ih (by omega)]

end Sys2Proof.Machine
end

