-- ==== Sys2Proof/Laws/Codec.lean ====
section
/-! SUPPORT. What the shared steps of SEAL and OPEN do to the file image: the copy, and the encryption or
decryption of `FB[12 ..]` with the image's own keystream (43_vault_codec.md R132, R135, R136). -/

namespace Sys2Proof.Machine

theorem vaultSize_pos (c : Config) : 0 < vaultSize c := by unfold vaultSize; omega

theorem vaultSize_lt (c : Config) : vaultSize c < 2 ^ 16 := by
  have := c.PAD.isLt
  unfold vaultSize
  omega

theorem fileSize_eq (c : Config) : fileSize c = 12 + vaultSize c := rfl

/-- R5: `FILE_SIZE < 2^16`. -/
theorem fileSize_lt (c : Config) : fileSize c < 2 ^ 16 := by
  have := c.PAD.isLt
  unfold fileSize vaultSize
  omega

/-- The stream INIT starts with counter 0 is the image's keystream (R132). -/
theorem streamByte_initEngine_zero (s : State) {i : Nat} (hi : i < 2 ^ 32) :
    streamByte (datapathOf (initEngine 0 s)) i = imageByte s.KEY s.NONCE i := by
  unfold streamByte imageByte
  simp only [datapathOf_POS, datapathOf_S, datapathOf_KS, initEngine_POS, initEngine_S,
    show (64 : BitVec 7).toNat = 64 from rfl]
  rw [if_neg (by omega), Nat.add_sub_cancel_left, counterState_initWords_zero _ _ (by omega)]

theorem cryptImage_frame (s : State) :
    cryptImage s = { s with
      S := (cryptImage s).S, KS := (cryptImage s).KS, POS := (cryptImage s).POS,
      FB := (cryptImage s).FB, INITED := true } := rfl

theorem cryptImage_FB (s : State) : (cryptImage s).FB =
    (xorBytes cipherOffset (vaultSize s.config) (datapathOf (initEngine 0 s))).FB := rfl

theorem cryptImage_wf {s : State} (h : s.FB.wf) : (cryptImage s).FB.wf :=
  (xorBytes_effect cipherOffset (vaultSize s.config) (s := datapathOf (initEngine 0 s))
    (Nat.le_refl 64) h).canonical

theorem cryptImage_within {s : State} (h : s.FB.within (fileSize s.config)) :
    (cryptImage s).FB.within (fileSize s.config) :=
  xorBytes_within (x := datapathOf (initEngine 0 s)) h (by rw [fileSize_eq]; exact Nat.le_refl _)

/-- Every byte of the image after the encryption or decryption in place. -/
theorem cryptImage_read {s : State} (h : s.FB.wf) (a : Nat) :
    (cryptImage s).FB.read a = if 12 ≤ a ∧ a < fileSize s.config
      then s.FB.read a ^^^ imageByte s.KEY s.NONCE (a - 12) else s.FB.read a := by
  have hb := (xorBytes_effect cipherOffset (vaultSize s.config) (s := datapathOf (initEngine 0 s))
    (Nat.le_refl 64) h).bytes a
  have hlt := vaultSize_lt s.config
  rw [cryptImage_FB, hb, fileSize_eq]
  unfold cipherOffset
  rw [datapathOf_FB, initEngine_FB]
  split
  · rw [streamByte_initEngine_zero s (by omega)]
  · rfl

theorem layImage_wf {s : State} (h : s.FB.wf) : (layImage s).FB.wf :=
  Memory.wf_writeRun (Memory.wf_writeRun h _ _ _) _ _ _

theorem layImage_within {s : State} (h : s.FB.within (fileSize s.config)) :
    (layImage s).FB.within (fileSize s.config) :=
  Memory.within_writeRun (Memory.within_writeRun h _ _ _ (by rw [fileSize_eq]; omega)) _ _ _
    (by rw [fileSize_eq]; exact Nat.le_refl _)

/-- The image laid out in clear: the nonce, then the record (R135 step 3). -/
theorem layImage_read {s : State} (h : s.FB.wf) (a : Nat) :
    (layImage s).FB.read a = if a < 12 then byteAt s.NONCE a
      else if a < fileSize s.config then s.VM.read (a - 12) else s.FB.read a := by
  rw [layImage_FB, Memory.read_writeRun (Memory.wf_writeRun h _ _ _), Memory.read_writeRun h, fileSize_eq]
  unfold cipherOffset
  by_cases h12 : a < 12
  · rw [if_neg (by omega), if_pos (by omega), if_pos h12, Nat.sub_zero]
  · rw [if_neg h12]
    by_cases hf : a < 12 + vaultSize s.config
    · rw [if_pos ⟨by omega, hf⟩, if_pos hf]
    · rw [if_neg (by omega), if_neg hf, if_neg (by omega)]

theorem byteAt_eq {n : Nat} (v : Vector Byte n) (i : Nat) (h : i < n) : byteAt v i = v[i] := by
  simp [byteAt, h]

theorem wordAt_eq (v : Vector Word 16) (i : Nat) (h : i < 16) : wordAt v i = v[i] := by
  simp [wordAt, h]

/-- SEAL past its entropy check: what it writes, and that it writes nothing else (R135). -/
theorem sealImage_frame (e : Vector Byte 12) (len : Nat) (s : State) :
    sealImage e len s = { s with
      NONCE := e, FB := (sealImage e len s).FB, FLEN := BitVec.ofNat 32 (fileSize s.config), RESULT := 0,
      KEY := Vector.replicate 32 0, S := Vector.replicate 16 0, KS := Vector.replicate 64 0,
      POS := 64, INITED := false } := rfl

theorem sealImage_FB (e : Vector Byte 12) (len : Nat) (s : State) : (sealImage e len s).FB =
    (cryptImage (layImage (deriveKey len { s with NONCE := e }))).FB := rfl

/-- Every byte of the sealed image (R132, R135). -/
theorem sealImage_read {s : State} (h : s.FB.wf) (e : Vector Byte 12) (len a : Nat) :
    (sealImage e len s).FB.read a = if a < 12 then byteAt e a
      else if a < fileSize s.config then s.VM.read (a - 12) ^^^ imageByte (derive s.PW len) e (a - 12)
      else s.FB.read a := by
  have hc : (layImage (deriveKey len { s with NONCE := e })).config = s.config := rfl
  have hk : (layImage (deriveKey len { s with NONCE := e })).KEY = derive s.PW len := rfl
  have hn : (layImage (deriveKey len { s with NONCE := e })).NONCE = e := rfl
  have hl := layImage_read (s := deriveKey len { s with NONCE := e }) h a
  rw [sealImage_FB, cryptImage_read (layImage_wf (s := deriveKey len { s with NONCE := e }) h), hl, hc,
    hk, hn]
  show _ = if a < 12 then byteAt e a else if a < fileSize s.config then _ else _
  by_cases h12 : a < 12
  · rw [if_neg (by omega), if_pos h12, if_pos h12]; rfl
  · rw [if_neg h12, if_neg h12]
    by_cases hf : a < fileSize s.config
    · rw [if_pos ⟨by omega, hf⟩, if_pos hf]
      exact congrArg (· ^^^ _) (if_pos hf)
    · rw [if_neg (by omega), if_neg hf]
      exact if_neg hf

theorem decryptImage_NONCE (len : Nat) (s : State) (i : Nat) (h : i < 12) :
    (decryptImage len s).NONCE[i] = s.FB.read i := by
  show (Vector.ofFn fun i : Fin 12 => s.FB.read i.val)[i] = _
  rw [Vector.getElem_ofFn]

/-- Every byte of the image after OPEN's decryption in place (R136 step 3). -/
theorem decryptImage_read {s : State} (h : s.FB.wf) (len a : Nat) :
    (decryptImage len s).FB.read a = if 12 ≤ a ∧ a < fileSize s.config
      then s.FB.read a ^^^ imageByte (derive s.PW len) (decryptImage len s).NONCE (a - 12)
      else s.FB.read a :=
  cryptImage_read (s := { deriveKey len s with NONCE := Vector.ofFn fun i => s.FB.read i.val }) h a

theorem decryptImage_wf {s : State} (h : s.FB.wf) (len : Nat) : (decryptImage len s).FB.wf :=
  cryptImage_wf (s := { deriveKey len s with NONCE := Vector.ofFn fun i => s.FB.read i.val }) h

/-- OPEN past its length check: what it writes, and that it writes nothing else (R136). -/
theorem openImage_frame (len : Nat) (s : State) :
    openImage len s = { s with
      NONCE := (decryptImage len s).NONCE, FB := (decryptImage len s).FB, VM := (openImage len s).VM,
      RESULT := if validCountAt (decryptImage len s).FB 12 then 0x00 else 0x05,
      KEY := Vector.replicate 32 0, S := Vector.replicate 16 0, KS := Vector.replicate 64 0,
      POS := 64, INITED := false } := by
  unfold openImage cipherOffset
  dsimp only
  split <;> rfl

theorem openImage_VM (len : Nat) (s : State) : (openImage len s).VM =
    if validCountAt (decryptImage len s).FB 12
    then s.VM.writeRun 0 (vaultSize s.config) fun i => (decryptImage len s).FB.read (12 + i)
    else s.VM := by
  unfold openImage cipherOffset
  dsimp only
  split <;> rfl

end Sys2Proof.Machine
end

