-- ==== Sys2Proof/Laws/Bus.lean ====
section
/-! SUPPORT. The host map: its rows do not overlap, so an access reaches a location exactly when some row of
the right width and with the right allows it (20_memory.md R40, R53). -/

namespace Sys2Proof.Machine

theorem Region.holds_iff (r : Region) (a : Nat) : r.holds a = true ↔
    r.base ≤ a ∧ a < r.base + r.width.bytes * r.count ∧ (a - r.base) % r.width.bytes = 0 := by
  unfold Region.holds
  rw [decide_eq_true_iff]

/-- The rows stand in address order and do not overlap. -/
theorem hostMap_ordered (c : Config) :
    (hostMap c).Pairwise fun r r' => r.base + r.width.bytes * r.count ≤ r'.base := by
  have := vaultSize_lt c
  simp only [hostMap, List.pairwise_cons, List.mem_cons, List.not_mem_nil, or_false, forall_eq_or_imp,
    forall_eq, Width.bytes, List.Pairwise.nil, and_true, false_implies, implies_true]
  omega

/-- An address lies in at most one row. -/
theorem hostMap_unique {c : Config} {r r' : Region} (hr : r ∈ hostMap c) (hr' : r' ∈ hostMap c) {a : Nat}
    (h : r.holds a = true) (h' : r'.holds a = true) : r = r' := by
  by_contra hne
  rw [Region.holds_iff] at h h'
  have hp := hostMap_ordered c
  have key : ∀ l : List Region,
      l.Pairwise (fun r r' => r.base + r.width.bytes * r.count ≤ r'.base) → r ∈ l → r' ∈ l → False := by
    intro l
    induction l with
    | nil => intro _ hm; cases hm
    | cons d l ih =>
      intro hl hm hm'
      rw [List.pairwise_cons] at hl
      rcases List.mem_cons.mp hm with rfl | hm₁
      · rcases List.mem_cons.mp hm' with rfl | hm'
        · exact hne rfl
        · have := hl.1 _ hm'; omega
      · rcases List.mem_cons.mp hm' with rfl | hm''
        · have := hl.1 _ hm₁; omega
        · exact ih hl.2 hm₁ hm''
  exact key _ hp hr hr'

/-- The location an address names is the one row that holds it. -/
theorem locate_eq_some_iff (c : Config) (a : Nat) (r : Region) :
    locate c a = some r ↔ r ∈ hostMap c ∧ r.holds a = true := by
  unfold locate
  constructor
  · intro h
    exact ⟨List.mem_of_find?_eq_some h, by simpa using List.find?_some (p := fun r : Region => r.holds a) h⟩
  · rintro ⟨hr, h⟩
    cases hf : (hostMap c).find? (·.holds a) with
    | none => exact absurd h (List.find?_eq_none.mp hf r hr)
    | some d =>
      exact congrArg some (hostMap_unique (List.mem_of_find?_eq_some hf) hr
        (by simpa using List.find?_some (p := fun r : Region => r.holds a) hf) h)

theorem readTarget_eq_some_iff (c : Config) (w : Width) (a : Nat) (r : Region) :
    readTarget c w a = some r ↔
      r ∈ hostMap c ∧ r.holds a = true ∧ r.width = w ∧ r.canRead = true := by
  unfold readTarget
  rw [Option.filter_eq_some_iff, locate_eq_some_iff, Bool.and_eq_true, beq_iff_eq]
  tauto

theorem writeTarget_eq_some_iff (c : Config) (w : Width) (a : Nat) (r : Region) :
    writeTarget c w a = some r ↔
      r ∈ hostMap c ∧ r.holds a = true ∧ r.width = w ∧ r.canWrite = true := by
  unfold writeTarget
  rw [Option.filter_eq_some_iff, locate_eq_some_iff, Bool.and_eq_true, beq_iff_eq]
  tauto

/-- An index found by the map is inside its row. -/
theorem Region.index_lt {r : Region} {a : Nat} (h : r.holds a = true) : r.index a < r.count := by
  rw [Region.holds_iff] at h
  unfold Region.index
  cases hw : r.width <;> rw [hw] at h <;> simp only [Width.bytes] at h ⊢ <;> omega

theorem holds_byte_row (l : Location) (b n i : Nat) (x y : Bool) (h : i < n) :
    (Region.mk l b n .byte x y).holds (b + i) = true := by
  rw [Region.holds_iff]
  simp only [Width.bytes]
  omega

theorem holds_word_row (l : Location) (b n i : Nat) (x y : Bool) (h : i < n) :
    (Region.mk l b n .word x y).holds (b + 4 * i) = true := by
  rw [Region.holds_iff]
  simp only [Width.bytes]
  omega

theorem index_byte_row (l : Location) (b n i : Nat) (x y : Bool) :
    (Region.mk l b n .byte x y).index (b + i) = i := by
  simp only [Region.index, Width.bytes]
  omega

theorem index_word_row (l : Location) (b n i : Nat) (x y : Bool) :
    (Region.mk l b n .word x y).index (b + 4 * i) = i := by
  simp only [Region.index, Width.bytes]
  omega

end Sys2Proof.Machine
end

