-- ==== Sys2Proof/Laws/Commands.lean ====
section
/-! SUPPORT. One inversion lemma per command: everything it can do when it answers a next state. Later
proofs cite these and do not unfold a meaning. -/

namespace Sys2Proof.Machine

theorem execInit_cases {s t : State} (h : exec .init s = .next t) : t = done (initEngine s.CTR0 s) := by
  cases h; rfl

theorem execDerive_cases {s t : State} {len : Nat} (h : exec (.derive len) s = .next t) :
    t = done (deriveKey len s) := by
  cases h; rfl

theorem execNextBlock_cases {s t : State} (h : exec .nextBlock s = .next t) :
    (s.INITED = true ∧ t = done (setDatapath (generate (datapathOf s)) s)) ∨
    (s.INITED = false ∧ t = raise .sequenceError s) := by
  cases h
  cases hI : s.INITED
  · exact .inr ⟨rfl, rfl⟩
  · exact .inl ⟨rfl, rfl⟩

theorem rangeInFB_iff (s : State) (n : Nat) :
    rangeInFB s n = true ↔ s.DPTR.toNat + n ≤ fileSize s.config := by
  unfold rangeInFB
  rw [decide_eq_true_iff]

theorem execXorStream_cases {s t : State} {n : Nat} (h : exec (.xorStream n) s = .next t) :
    (s.INITED = false ∧ t = raise .sequenceError s) ∨
    (s.INITED = true ∧ fileSize s.config < s.DPTR.toNat + n ∧ t = raise .rangeError s) ∨
    (s.INITED = true ∧ s.DPTR.toNat + n ≤ fileSize s.config ∧
      t = done (setDatapath (xorBytes s.DPTR.toNat n (datapathOf s)) s)) := by
  simp only [exec, execXorStream, Host.Outcome.next.injEq] at h
  have hr := rangeInFB_iff s n
  cases hI : s.INITED
  · exact .inl ⟨rfl, by rw [← h, if_pos hI]⟩
  · rw [if_neg (by simp [hI])] at h
    cases hb : rangeInFB s n
    · rw [if_pos hb] at h
      exact .inr (.inl ⟨rfl, Nat.not_le.mp fun hle => by simp [hr.mpr hle] at hb, h.symm⟩)
    · rw [if_neg (by simp [hb])] at h
      exact .inr (.inr ⟨rfl, hr.mp hb, h.symm⟩)

theorem execSeal_hangs {s : State} (len : Nat) (h : entropyHangs s = true) :
    exec (.sealVault len) s = .fault .entropyNeverAnswers := by
  simp only [exec, execSeal, h, if_true]

theorem execSeal_cases {s t : State} {len : Nat} (h : exec (.sealVault len) s = .next t) :
    entropyHangs s = false ∧
    ((entropyReply s = none ∧ t = raise .entropyError (takeEntropy s)) ∨
      ∃ e, entropyReply s = some e ∧ t = sealImage e len (takeEntropy s)) := by
  cases hh : entropyHangs s
  · refine ⟨rfl, ?_⟩
    cases he : entropyReply s with
    | none => exact .inl ⟨rfl, by simpa [exec, execSeal, hh, he] using h.symm⟩
    | some e => exact .inr ⟨e, rfl, by simpa [exec, execSeal, hh, he] using h.symm⟩
  · rw [execSeal_hangs len hh] at h
    cases h

theorem execOpen_cases {s t : State} {len : Nat} (h : exec (.openVault len) s = .next t) :
    (s.FLEN.toNat < fileSize s.config ∧ t = raise .ioReadError s) ∨
    (fileSize s.config ≤ s.FLEN.toNat ∧ t = openImage len s) := by
  simp only [exec, execOpen, Host.Outcome.next.injEq] at h
  by_cases hl : s.FLEN.toNat < fileSize s.config
  · exact .inl ⟨hl, by rw [← h, if_pos hl]⟩
  · exact .inr ⟨by omega, by rw [← h, if_neg hl]⟩

theorem execValidate_cases {s t : State} (h : exec .validate s = .next t) :
    (validCountAt s.VM 0 = true ∧ t = done s) ∨
    (validCountAt s.VM 0 = false ∧ t = raise .corruptOrWrongPasswordError s) := by
  cases h
  cases hv : validCountAt s.VM 0
  · exact .inr ⟨rfl, rfl⟩
  · exact .inl ⟨rfl, rfl⟩

/-- The issue of a word: the decoded command, or the one effect of an illegal word (R27, R74). -/
theorem issue_cases {w : Word} {s t : State} (h : issue w s = .next t) :
    (∃ i, decode w = .command i ∧ exec i s = .next t) ∨
    (∃ why, decode w = .illegal why ∧ t = raise .illegalCommand s) := by
  unfold issue at h
  cases hd : decode w with
  | command i => rw [hd] at h; exact .inl ⟨i, rfl, h⟩
  | illegal why => rw [hd] at h; cases h; exact .inr ⟨why, rfl, rfl⟩

/-! ### The other direction: where each case happens -/

theorem execXorStream_uninitialized {s : State} (n : Nat) (hI : s.INITED = false) :
    exec (.xorStream n) s = .next (raise .sequenceError s) := by
  rw [exec, execXorStream, if_pos hI]

theorem execXorStream_out_of_range {s : State} {n : Nat} (hI : s.INITED = true)
    (h : fileSize s.config < s.DPTR.toNat + n) :
    exec (.xorStream n) s = .next (raise .rangeError s) := by
  have hr : rangeInFB s n = false := by
    rw [Bool.eq_false_iff, Ne, rangeInFB_iff]
    omega
  rw [exec, execXorStream, if_neg (by simp [hI]), if_pos hr]

theorem execXorStream_in_range {s : State} {n : Nat} (hI : s.INITED = true)
    (h : s.DPTR.toNat + n ≤ fileSize s.config) :
    exec (.xorStream n) s =
      .next (done (setDatapath (xorBytes s.DPTR.toNat n (datapathOf s)) s)) := by
  rw [exec, execXorStream, if_neg (by simp [hI]), if_neg (by simp [(rangeInFB_iff s n).mpr h])]

theorem execSeal_answered {s : State} (len : Nat) {e : Vector Byte 12} (h : entropyHangs s = false)
    (he : entropyReply s = some e) :
    exec (.sealVault len) s = .next (sealImage e len (takeEntropy s)) := by
  simp [exec, execSeal, h, he]

theorem execOpen_long {s : State} (len : Nat) (h : fileSize s.config ≤ s.FLEN.toNat) :
    exec (.openVault len) s = .next (openImage len s) := by
  simp only [exec, execOpen, if_neg (Nat.not_lt.mpr h)]

end Sys2Proof.Machine
end

