-- ==== Sys2Proof/Laws/Fields.lean ====
section
/-! SUPPORT. The two fields of a command word: a word is its two fields, and format L puts its length and
opcode where they are read back (30_encoding.md R70, R72). -/

namespace Sys2Proof

/-- A word is `imm` above `op`, with no bit left over (R70). -/
theorem word_eq_fields (w : Word) : w.toNat = (immField w).toNat * 256 + (opField w).toNat := by
  unfold immField opField
  rw [BitVec.extractLsb'_toNat, BitVec.extractLsb'_toNat, Nat.shiftRight_eq_div_pow,
    Nat.shiftRight_eq_div_pow]
  have := w.isLt
  omega

theorem formatL_toNat {n op : Nat} (hn : n < 2 ^ 24) (ho : op < 256) :
    (formatL n op).toNat = n * 256 + op := by
  unfold formatL
  rw [BitVec.toNat_or, BitVec.toNat_shiftLeft, BitVec.toNat_ofNat, BitVec.toNat_ofNat,
    Nat.mod_eq_of_lt (a := n) (by omega), Nat.mod_eq_of_lt (a := op) (by omega), Nat.shiftLeft_eq,
    Nat.mod_eq_of_lt (by omega), Nat.mul_comm, ← Nat.two_pow_add_eq_or_of_lt (by simpa using ho)]

theorem opField_formatL {n op : Nat} (hn : n < 2 ^ 24) (ho : op < 256) :
    opField (formatL n op) = BitVec.ofNat 8 op := by
  apply BitVec.eq_of_toNat_eq
  have h := word_eq_fields (formatL n op)
  have := (opField (formatL n op)).isLt
  rw [formatL_toNat hn ho] at h
  rw [BitVec.toNat_ofNat]
  omega

theorem immField_formatL {n op : Nat} (hn : n < 2 ^ 24) (ho : op < 256) :
    (immField (formatL n op)).toNat = n := by
  have h := word_eq_fields (formatL n op)
  have := (opField (formatL n op)).isLt
  rw [formatL_toNat hn ho] at h
  omega

end Sys2Proof
end

