-- ==== Sys2Proof/Laws/Operands.lean ====
section
/-! SUPPORT. The operand functions by number and by index: little-endian packing (00_scope.md R6), the words
of INIT (41_chacha20_engine.md R106), the derived key (40_key_derivation.md R90), the quarter-round's places
(R102). -/

namespace Sys2Proof.Machine

theorem le32_toNat (b0 b1 b2 b3 : Byte) : (le32 b0 b1 b2 b3).toNat =
    b0.toNat + 2 ^ 8 * b1.toNat + 2 ^ 16 * b2.toNat + 2 ^ 24 * b3.toNat := by
  unfold le32
  have := b0.isLt
  have := b1.isLt
  have := b2.isLt
  simp only [BitVec.toNat_append]
  rw [← Nat.shiftLeft_add_eq_or_of_lt (by omega), ← Nat.shiftLeft_add_eq_or_of_lt (by omega),
    ← Nat.shiftLeft_add_eq_or_of_lt (by omega)]
  simp only [Nat.shiftLeft_eq]
  omega

theorem bytesLE_get (w : Word) (k : Nat) (h : k < 4) :
    byteAt (bytesLE w) k = w.extractLsb' (8 * k) 8 := by
  obtain rfl | rfl | rfl | rfl : k = 0 ∨ k = 1 ∨ k = 2 ∨ k = 3 := by omega
  all_goals rfl

theorem keyWord_toNat (key : Vector Byte 32) (i : Nat) (h : i < 8) : (keyWord key i).toNat =
    key[4 * i].toNat + 2 ^ 8 * key[4 * i + 1].toNat + 2 ^ 16 * key[4 * i + 2].toNat +
      2 ^ 24 * key[4 * i + 3].toNat := by
  unfold keyWord
  rw [le32_toNat, byteAt_eq _ _ (by omega), byteAt_eq _ _ (by omega), byteAt_eq _ _ (by omega),
    byteAt_eq _ _ (by omega)]

theorem nonceWord_toNat (nonce : Vector Byte 12) (i : Nat) (h : i < 3) : (nonceWord nonce i).toNat =
    nonce[4 * i].toNat + 2 ^ 8 * nonce[4 * i + 1].toNat + 2 ^ 16 * nonce[4 * i + 2].toNat +
      2 ^ 24 * nonce[4 * i + 3].toNat := by
  unfold nonceWord
  rw [le32_toNat, byteAt_eq _ _ (by omega), byteAt_eq _ _ (by omega), byteAt_eq _ _ (by omega),
    byteAt_eq _ _ (by omega)]

theorem derive_get (p : Vector Byte 32) (len i : Nat) (h : i < 32) :
    (derive p len)[i] = if i < len then p[i] else 0 := by
  unfold derive
  simp only [Vector.getElem_ofFn, Fin.getElem_fin]
  by_cases hl : i < len
  · rw [if_pos hl, if_pos (by omega)]
  · rw [if_neg hl, if_neg (by omega)]

theorem doubleRounds_iterate (n : Nat) (w : Vector Word 16) : doubleRounds n w = doubleRound^[n] w := by
  induction n generalizing w with
  | zero => rfl
  | succ n ih => rw [doubleRounds, ih, Function.iterate_succ_apply]

/-- Every place after a quarter-round on four places (R102). -/
theorem qrAt_get (w : Vector Word 16) (i j k l m : Fin 16) : (qrAt w i j k l)[m] =
    if m = l then (quarterRound (w[i], w[j], w[k], w[l])).2.2.2
    else if m = k then (quarterRound (w[i], w[j], w[k], w[l])).2.2.1
    else if m = j then (quarterRound (w[i], w[j], w[k], w[l])).2.1
    else if m = i then (quarterRound (w[i], w[j], w[k], w[l])).1 else w[m] := by
  unfold qrAt
  simp only [Fin.getElem_fin, Vector.getElem_set, Fin.ext_iff, eq_comm]

end Sys2Proof.Machine
end

