-- ==== Sys2Proof/Laws/PerInstr.lean ====
section
/-! SUPPORT. One lemma per command: the fields of its word are its opcode and its length operand
(30_encoding.md R71, R73). -/

namespace Sys2Proof.Laws.EncodedFields

/-- The opcode of a command (R73). -/
def opcode : Instr → Byte
  | .init => 0x01
  | .nextBlock => 0x02
  | .xorStream _ => 0x03
  | .derive _ => 0x10
  | .sealVault _ => 0x20
  | .openVault _ => 0x21
  | .validate => 0x22

/-- The length operand of a command; 0 in format Z (R71). -/
def length : Instr → Nat
  | .init => 0
  | .nextBlock => 0
  | .xorStream n => n
  | .derive len => len
  | .sealVault len => len
  | .openVault len => len
  | .validate => 0

def Statement (i : Instr) : Prop :=
  i.wellFormed = true → opField (encode i) = opcode i ∧ (immField (encode i)).toNat = length i

theorem formatL_fields {n op : Nat} (hn : lengthFits n = true) (ho : op < 256) :
    opField (formatL n op) = BitVec.ofNat 8 op ∧ (immField (formatL n op)).toNat = n :=
  have h : n < 2 ^ 24 := of_decide_eq_true hn
  ⟨opField_formatL h ho, immField_formatL h ho⟩

theorem init : Statement .init := fun _ => by decide
theorem nextBlock : Statement .nextBlock := fun _ => by decide
theorem xorStream (n : Nat) : Statement (.xorStream n) := fun h => formatL_fields h (by decide)
theorem derive (len : Nat) : Statement (.derive len) := fun h => formatL_fields h (by decide)
theorem sealVault (len : Nat) : Statement (.sealVault len) := fun h => formatL_fields h (by decide)
theorem openVault (len : Nat) : Statement (.openVault len) := fun h => formatL_fields h (by decide)
theorem validate : Statement .validate := fun _ => by decide

end Sys2Proof.Laws.EncodedFields
end

