-- ==== Sys2Proof/Machine/Script.lean ====
section
/-! DEFINITION. The script notation of 30_encoding.md R77 and its pseudo-commands (R78): each line as the
host transactions it stands for. It adds nothing to the machine. -/

namespace Sys2Proof.Machine

/-- One line of a host's script (R77, R78). -/
inductive ScriptLine where
  /-- One of the seven command lines. -/
  | command (i : Instr)
  /-- `WR reg, v`. -/
  | wr (reg : Location) (v : Word)
  /-- `RD reg`; the index serves `S[i]` and is 0 otherwise. -/
  | rd (reg : Location) (i : Nat)
  /-- `WRB buf[i], b0 b1 …`. -/
  | wrb (buf : Location) (i : Nat) (bytes : List Byte)
  /-- `RDB buf[i], k`. -/
  | rdb (buf : Location) (i k : Nat)
  /-- `ENTROPY ok …` and `ENTROPY fail`: what the source answers next. -/
  | entropy (a : EntropyAnswer)
  /-- `ENCRYPT n` (R78). -/
  | encrypt (n : Nat)
  /-- `DECRYPT n` (R78). -/
  | decrypt (n : Nat)
  /-- `WRS buf[i], "text"` (R78). -/
  | wrs (buf : Location) (i : Nat) (text : String)
  /-- `SAVE len` (R78). -/
  | save (len : Nat)
  /-- `LOAD len`, after the host has written the `k` bytes it read (R78). -/
  | load (k len : Nat)
  deriving DecidableEq, Repr

/-- The host address of location `i` of a row (20_memory.md R40). -/
def addressOf : Location → Nat → Nat
  | .CMD, _ => 0x00000
  | .STATUS, _ => 0x00004
  | .RESULT, _ => 0x00008
  | .CTR0, _ => 0x0000C
  | .DPTR, _ => 0x00010
  | .FLEN, _ => 0x00014
  | .S, i => 0x00040 + 4 * i
  | .KS, i => 0x00080 + i
  | .KEY, i => 0x000C0 + i
  | .NONCE, i => 0x000E0 + i
  | .PW, i => 0x00100 + i
  | .VM, i => 0x10000 + i
  | .FB, i => 0x20000 + i

/-- The write of a command word to `CMD` (R77). -/
def commandWrite (i : Instr) : HostEvent := .write32 (addressOf .CMD 0) (encode i)

/-- The byte writes of `WRB`, in increasing index order. -/
def byteWrites (buf : Location) (i : Nat) (bytes : List Byte) : List HostEvent :=
  bytes.zipIdx.map fun (b, k) => .write8 (addressOf buf (i + k)) b

/-- The byte reads of `RDB`. -/
def byteReads (buf : Location) (i k : Nat) : List HostEvent :=
  (List.range k).map fun j => .read8 (addressOf buf (i + j))

/-- The ASCII bytes of a text, with no terminating zero byte (R78). -/
def textBytes (text : String) : List Byte := text.toList.map fun ch => BitVec.ofNat 8 ch.toNat

/-- The transactions of one line (R77, R78); an ENTROPY line is no host action. -/
def ScriptLine.events (c : Config) : ScriptLine → List HostEvent
  | .command i => [commandWrite i]
  | .wr reg v => [.write32 (addressOf reg 0) v]
  | .rd reg i => [.read32 (addressOf reg i)]
  | .wrb buf i bytes => byteWrites buf i bytes
  | .rdb buf i k => byteReads buf i k
  | .entropy _ => []
  | .encrypt n => [commandWrite (.xorStream n)]
  | .decrypt n => [commandWrite (.xorStream n)]
  | .wrs buf i text => byteWrites buf i (textBytes text)
  | .save len =>
    commandWrite (.sealVault len) :: .read32 (addressOf .RESULT 0) :: .read32 (addressOf .FLEN 0)
      :: byteReads .FB 0 (fileSize c)
  | .load k len =>
    [.write32 (addressOf .FLEN 0) (BitVec.ofNat 32 k), commandWrite (.openVault len),
     .read32 (addressOf .RESULT 0)]

/-- One thing a script says, in its place: a host event, or the fixing of an entropy answer (R77). -/
inductive ScriptAction where
  | event (e : HostEvent)
  | fixAnswer (a : EntropyAnswer)
  deriving DecidableEq, Repr

/-- A line's events and answers, in their order. -/
def ScriptLine.actions (c : Config) : ScriptLine → List ScriptAction
  | .entropy a => [.fixAnswer a]
  | line => (line.events c).map .event

/-- The event makes one entropy request: it is the issue of a SEAL (20_memory.md R50). -/
def HostEvent.requestsEntropy : HostEvent → Bool
  | .write32 a w =>
    match decode w with
    | .command (.sealVault _) => a == cmdAddress
    | _ => false
  | _ => false

/-- The free answer to request number `k`, as an entry of the list of answers. -/
def freeAnswer (k : Nat) : EntropyAnswer :=
  match Config.entropyAnswer k with
  | some e => .ok e
  | none => .fail

/-- The answers to the requests of a script, one per request, from request number `k` on, with the answers
`waiting` fixed before it. An ENTROPY line fixes the answer to the next request AFTER it (R77), so a request
with none waiting takes the free answer and never one fixed later. R77 leaves open what a second ENTROPY line
does when no request came between: here the answers wait in turn, one per request, and neither replaces the
other (DESIGN CHOICE, log entry 18; unsafe for a script with two such lines). -/
def answersInOrder : (k : Nat) → (waiting : List EntropyAnswer) → List ScriptAction → List EntropyAnswer
  | _, waiting, [] => waiting
  | k, waiting, .fixAnswer a :: rest => answersInOrder k (waiting ++ [a]) rest
  | k, waiting, .event e :: rest =>
    if e.requestsEntropy then
      match waiting with
      | [] => freeAnswer k :: answersInOrder (k + 1) [] rest
      | a :: waiting => a :: answersInOrder (k + 1) waiting rest
    else answersInOrder k waiting rest

/-- The state with a whole script pending after what is pending already; the ENTROPY lines keep their places
among the SEALs (log entry 18). -/
def State.withScript (s : State) (lines : List ScriptLine) : State :=
  { s with
    bus := s.bus ++ lines.flatMap (ScriptLine.events s.config)
    entropy := answersInOrder s.entropyDraws s.entropy
      (s.bus.map .event ++ lines.flatMap (ScriptLine.actions s.config)) }

end Sys2Proof.Machine
end

