-- ==== Sys2Proof/Laws/Script.lean ====
section
/-! SUPPORT. The entropy answers of a script: each request gets the answer that waits when it comes
(30_encoding.md R77), and the free answer written into the list is the one an empty list gives. -/

namespace Sys2Proof.Machine

@[simp] theorem answersInOrder_nil (k : Nat) (waiting : List EntropyAnswer) :
    answersInOrder k waiting [] = waiting := rfl

@[simp] theorem answersInOrder_fixAnswer (k : Nat) (waiting : List EntropyAnswer) (a : EntropyAnswer)
    (rest : List ScriptAction) :
    answersInOrder k waiting (.fixAnswer a :: rest) = answersInOrder k (waiting ++ [a]) rest := rfl

/-- A request with no answer waiting takes the free one, whatever is fixed after it. -/
theorem answersInOrder_request_free (k : Nat) {e : HostEvent} (h : e.requestsEntropy = true)
    (rest : List ScriptAction) :
    answersInOrder k [] (.event e :: rest) = freeAnswer k :: answersInOrder (k + 1) [] rest := by
  rw [answersInOrder, if_pos h]

/-- A request takes the answer that has waited longest. -/
theorem answersInOrder_request_waiting (k : Nat) {e : HostEvent} (h : e.requestsEntropy = true)
    (a : EntropyAnswer) (waiting : List EntropyAnswer) (rest : List ScriptAction) :
    answersInOrder k (a :: waiting) (.event e :: rest) =
      a :: answersInOrder (k + 1) waiting rest := by
  rw [answersInOrder, if_pos h]

theorem answersInOrder_other (k : Nat) (waiting : List EntropyAnswer) {e : HostEvent}
    (h : e.requestsEntropy = false) (rest : List ScriptAction) :
    answersInOrder k waiting (.event e :: rest) = answersInOrder k waiting rest := by
  cases waiting <;> simp [answersInOrder, h]

/-- The free answer at the head of the list is what an empty list answers (20_memory.md R50). -/
theorem entropyReply_freeAnswer (s : State) (rest : List EntropyAnswer) :
    entropyReply { s with entropy := freeAnswer s.entropyDraws :: rest } =
      entropyReply { s with entropy := [] } := by
  unfold entropyReply freeAnswer
  cases Config.entropyAnswer s.entropyDraws <;> rfl

/-- The free answer is always an answer: it never hangs SEAL. -/
theorem entropyHangs_freeAnswer (s : State) (k : Nat) (rest : List EntropyAnswer) :
    entropyHangs { s with entropy := freeAnswer k :: rest } = false := by
  unfold entropyHangs freeAnswer
  cases Config.entropyAnswer k <;> rfl

end Sys2Proof.Machine
end

