-- ==== Sys2Proof/Tests/Slice0.lean ====
section
/-! SUPPORT. Tests. Every expected value is one of spec/95_test_vectors.md (its row is named) or hand work from
the cited rule; each is one evaluation or one step. The witnesses of the statements are the section's end. -/

namespace Sys2Proof.Tests
open Sys2Proof.Machine

/-! ## Small states -/

/-- The machine went on, to a state with the property. -/
def goesTo (o : Outcome) (p : State → Bool) : Bool :=
  match o with
  | .next t => p t
  | .fault _ => false
  | .refused _ => false

/-- The bytes `b, b + 1, …`. -/
def rising (n b : Nat) : Vector Byte n := Vector.ofFn fun i => BitVec.ofNat 8 (b + i.val)

/-- The reset state with the engine loaded as INIT loads it (R106). -/
def loaded (key : Vector Byte 32) (nonce : Vector Byte 12) (c : Word) : State :=
  { State.reset with KEY := key, NONCE := nonce, CTR0 := c, S := initWords key nonce c, INITED := true }

/-- The zero key, nonce and counter, loaded. -/
def zeroLoaded : State := loaded (Vector.replicate 32 0) (Vector.replicate 12 0) 0

/-- The reset state with one transaction pending. -/
def pending (e : HostEvent) : State := { State.reset with bus := [e] }

/-- The nonce `00 00 00 09 00 00 00 4a 00 00 00 00` of 2.3. -/
def nonceT : Vector Byte 12 := #v[0, 0, 0, 9, 0, 0, 0, 0x4a, 0, 0, 0, 0]

/-- State `T` of 2.3. -/
def stateT : Vector Word 16 := #v[
  0x61707865, 0x3320646e, 0x79622d32, 0x6b206574, 0x03020100, 0x07060504, 0x0b0a0908, 0x0f0e0d0c,
  0x13121110, 0x17161514, 0x1b1a1918, 0x1f1e1d1c, 0x00000001, 0x09000000, 0x4a000000, 0x00000000]

/-- `PW` of the K rows: `01 02 … 20`. -/
def passwordK : State := { State.reset with PW := rising 32 1 }

/-- The entropy answer `a0 … ab` of program P3. -/
def nonceP3 : Vector Byte 12 := rising 12 0xa0

/-- The password `hunter2` in `PW`. -/
def hunter2 : Vector Byte 32 :=
  Vector.ofFn fun i => [0x68, 0x75, 0x6e, 0x74, 0x65, 0x72, 0x32].getD i.val 0

/-- P3's start of SEAL: the empty vault, the password, one entropy answer. -/
def beforeSeal : State := { State.reset with PW := hunter2, entropy := [.ok nonceP3] }

/-- O1's start of OPEN, the image cut to its nonce and its first four ciphertext bytes. -/
def beforeOpen : State :=
  { State.reset with
    PW := hunter2, FLEN := 25616
    FB := [(0, 0xa0), (1, 0xa1), (2, 0xa2), (3, 0xa3), (4, 0xa4), (5, 0xa5), (6, 0xa6), (7, 0xa7),
      (8, 0xa8), (9, 0xa9), (10, 0xaa), (11, 0xab), (12, 0x7f), (13, 0x36), (14, 0x48), (15, 0xa7)] }

/-! ## Syntax: ill-formed terms are refused -/

theorem test_xorStream_length_refused : (Instr.xorStream (2 ^ 24)).wellFormed = false := by decide
theorem test_derive_length_refused : (Instr.derive (2 ^ 24)).wellFormed = false := by decide
theorem test_seal_length_refused : (Instr.sealVault (2 ^ 24)).wellFormed = false := by decide
theorem test_open_length_refused : (Instr.openVault (2 ^ 24)).wellFormed = false := by decide
theorem test_longest_lengths_accepted :
    ([.xorStream 16777215, .derive 16777215, .sealVault 16777215, .openVault 16777215, .init,
      .nextBlock, .validate] : List Instr).all Instr.wellFormed = true := by decide

/-! ## Decoding: the words of 2.8 -/

theorem test_decode_init : decode 0x00000001 = .command .init := by decide
theorem test_decode_nextBlock : decode 0x00000002 = .command .nextBlock := by decide
theorem test_decode_xorStream : decode 0xFFFFFF03 = .command (.xorStream 16777215) := by decide
theorem test_decode_derive : decode 0x00000210 = .command (.derive 2) := by decide
theorem test_decode_seal : decode 0x00000720 = .command (.sealVault 7) := by decide
theorem test_decode_open : decode 0x00000521 = .command (.openVault 5) := by decide
theorem test_decode_validate : decode 0x00000022 = .command .validate := by decide

/-- E3, E5, E14. -/
theorem test_decode_immediate_in_format_Z : [0x00000101, 0x00010002, 0x00000122].map decode =
    List.replicate 3 (.illegal .immNotZero) := by decide

/-- E1, E9, E15. -/
theorem test_decode_unassigned :
    [0x00000000, 0x00000004, 0x00000023, 0x0000000F, 0x00000011, 0x0000001F, 0x00000080, 0x000000FF,
      0xFFFFFFFF].map decode = List.replicate 9 (.illegal .unassignedOp) := by decide

/-- The words R77's lines stand for. -/
theorem test_encode :
    [.init, .nextBlock, .xorStream 59, .derive 33, .sealVault 7, .openVault 5, .validate].map encode =
      [0x00000001, 0x00000002, 0x00003B03, 0x00002110, 0x00000720, 0x00000521, 0x00000022] := by decide

theorem test_decodeTableWord : decodeTableWord 32 0x00000503 = some (.xorStream 5) := by decide

/-- 2.11: an illegal word gives `0x80` (E1). -/
theorem test_illegal_word :
    goesTo (step (pending (.write32 0 0))) (fun t => t.RESULT == 0x80) = true := by decide

/-! ## Arithmetic and the engine -/

/-- A5 to A8. -/
theorem test_rotations : [16, 12, 8, 7].map (rotl32 0x12345678) =
    [0x56781234, 0x45678123, 0x34567812, 0x1A2B3C09] := by decide

/-- A11, A12. -/
theorem test_little_endian : le32 0x65 0x78 0x70 0x61 = 0x61707865 ∧
    bytesLE 0xE4E7F110 = #v[0x10, 0xf1, 0xe7, 0xe4] := by decide +kernel

/-- V1. -/
theorem test_quarterRound : quarterRound (0x11111111, 0x01020304, 0x9b8d6f43, 0x01234567) =
    (0xea2a92f4, 0xcb1cf8ce, 0x4581472e, 0x5881c4bb) := by decide +kernel

/-- V2: only words 2, 7, 8, 13 change. -/
theorem test_qrAt : qrAt #v[
  0x879531e0, 0xc5ecf37d, 0x516461b1, 0xc9a62f8a, 0x44c20ef3, 0x3390af7f, 0xd9fc690b, 0x2a5f714c,
  0x53372767, 0xb00a5631, 0x974c541a, 0x359e9963, 0x5c971061, 0x3d631689, 0x2098d9d6, 0x91dbd320] 2 7 8 13 = #v[
  0x879531e0, 0xc5ecf37d, 0xbdb886dc, 0xc9a62f8a, 0x44c20ef3, 0x3390af7f, 0xd9fc690b, 0xcfacafd2,
  0xe46bea80, 0xb00a5631, 0x974c541a, 0x359e9963, 0x5c971061, 0xccc07c79, 0x2098d9d6, 0x91dbd320] := by
  decide +kernel

/-- V3a. -/
theorem test_columnRound : columnRound stateT = #v[
  0xabbaa25c, 0x1efa51ea, 0x7354fbdf, 0x83d2dc69, 0x3a465196, 0x1c7e64f6, 0xb12fb628, 0xf05b6976,
  0x6b3ca454, 0x08eb14b1, 0xbf8a9ac9, 0xe444df3b, 0xdec62ed2, 0x8862cc77, 0x6e35b345, 0x52a647f1] := by decide +kernel

/-- V3. -/
theorem test_doubleRound : doubleRound stateT = #v[
  0xcd52e917, 0x85ab03b4, 0xb3457395, 0xf96de7dd, 0xc4b7cd22, 0x5c2e187a, 0xc95eb461, 0x316c801a,
  0x7bf7d740, 0x7eddd644, 0xf1a1bdf5, 0x761246ca, 0x6b0d58a3, 0x6798471a, 0xd737f167, 0xf173888d] := by decide +kernel

/-- V4. -/
theorem test_block : block stateT = #v[
  0x10, 0xf1, 0xe7, 0xe4, 0xd1, 0x3b, 0x59, 0x15, 0x50, 0x0f, 0xdd, 0x1f, 0xa3, 0x20, 0x71, 0xc4,
  0xc7, 0xd1, 0xf4, 0xc7, 0x33, 0xc0, 0x68, 0x03, 0x04, 0x22, 0xaa, 0x9a, 0xc3, 0xd4, 0x6c, 0x4e,
  0xd2, 0x82, 0x64, 0x46, 0x07, 0x9f, 0xaa, 0x09, 0x14, 0xc2, 0xd7, 0x05, 0xd9, 0x8b, 0x02, 0xa2,
  0xb5, 0x12, 0x9c, 0xd1, 0xde, 0x16, 0x4e, 0xb9, 0xcb, 0xd0, 0x83, 0xe8, 0xa2, 0x50, 0x3c, 0x4e] := by
  decide +kernel

/-- C1a: `S[12]` and `S[13]` wrap, `S[14]` does not change. -/
theorem test_advance_wraps :
    advance #v[0, 0, 0, 0, 0, 0, 0, 0, 0, 0, 0, 0, 0xFFFFFFFF, 0xFFFFFFFF, 0x4a000000, 0] =
      #v[0, 0, 0, 0, 0, 0, 0, 0, 0, 0, 0, 0, 0, 0, 0x4a000000, 0] := by decide +kernel

/-- B2: INIT. -/
theorem test_init :
    goesTo (exec .init { State.reset with KEY := rising 32 0, NONCE := nonceT, CTR0 := 1 })
      (fun t => t.S == stateT && statusWord t == 0x00004001) = true := by decide +kernel

/-- P1 step 10: INIT leaves `KS` alone. -/
theorem test_init_keeps_block :
    goesTo (exec .init { State.reset with KS := rising 64 7 }) (fun t => t.KS == rising 64 7) = true := by
  decide +kernel

/-- C2: NEXT_BLOCK with the carry. -/
theorem test_nextBlock : goesTo (exec .nextBlock (loaded (rising 32 0) nonceT 0xFFFFFFFF))
    (fun t => t.KS.toList.take 4 == [0xff, 0x29, 0x41, 0xb8] && t.S[12] == 0 && t.S[13] == 0x09000001 &&
      t.S[14] == 0x4a000000 && statusWord t == 0x00004001) = true := by decide +kernel

/-- B4. -/
theorem test_nextBlock_uninitialized :
    exec .nextBlock State.reset = .next { State.reset with RESULT := 0x81 } := by rfl

/-! ## XOR_STREAM -/

/-- P1 steps 6 to 8: `hello` under the key `ab`. -/
theorem test_xorStream_hello :
    goesTo (exec (.xorStream 5) { loaded (derive #v[
          0x61, 0x62, 1, 1, 1, 1, 1, 1, 1, 1, 1, 1, 1, 1, 1, 1, 1, 1, 1, 1, 1, 1, 1, 1, 1, 1, 1, 1, 1, 1, 1, 1] 2)
        (rising 12 0) 0 with
        DPTR := 12, FB := [(12, 0x68), (13, 0x65), (14, 0x6c), (15, 0x6c), (16, 0x6f)] })
      (fun t => t.FB == [(12, 0x6f), (13, 0xbc), (14, 0xe0), (15, 0x3c), (16, 0x85)] &&
        t.S[12] == 1 && statusWord t == 0x00000502) = true := by decide +kernel

/-- S3 to S7: the range check on the true sum. -/
theorem test_xorStream_range :
    ([(25616, 1, 0x82), (25616, 0, 0), (25617, 0, 0x82), (0, 16777215, 0x82), (0xFFFFFFFF, 1, 0x82)] :
      List (Word × Nat × Word)).all (fun (d, n, r) =>
        goesTo (exec (.xorStream n) { zeroLoaded with DPTR := d }) (fun t => t.RESULT == r)) = true := by
  decide +kernel

/-! ## DERIVE -/

/-- K6: `PW[5..31]` ignored. -/
theorem test_derive_short : goesTo (exec (.derive 5) passwordK)
    (fun t => t.KEY.toList == [1, 2, 3, 4, 5] ++ List.replicate 27 0) = true := by decide +kernel

/-- K4, K5: as K3. -/
theorem test_derive_long : ([32, 33, 16777215] : List Nat).all (fun n =>
    goesTo (exec (.derive n) passwordK) (fun t => t.KEY == rising 32 1)) = true := by decide +kernel

/-! ## The vault codec -/

/-- P3 step 4: the nonce and the first ciphertext bytes of `IMG0`, the last bytes of blocks 399 and 400. -/
theorem test_seal_image : ([0, 11, 12, 13, 14, 15, 76, 25608, 25611, 25612, 25615] : List Nat).map
    (sealImage nonceP3 7 (takeEntropy beforeSeal)).FB.read =
      [0xa0, 0xab, 0x7f, 0x36, 0x48, 0xa7, 0xe0, 0xa8, 0x22, 0x45, 0x5c] := by
  simp only [List.map_cons, List.map_nil, sealImage_read (s := takeEntropy beforeSeal) Memory.wf_nil]
  decide +kernel

/-- P5 step 5: the source fails. -/
theorem test_seal_fails : goesTo (exec (.sealVault 0) { State.reset with entropy := [.fail] })
    (fun t => t.RESULT == 1 && t.FLEN == 0 && t.FB == []) = true := by decide +kernel

/-- O1: the count of `IMG0` decrypts to zero, and OPEN accepts it. -/
theorem test_open_accepts : goesTo (exec (.openVault 7) beforeOpen) (fun t => t.RESULT == 0) = true := by
  have hw : beforeOpen.FB.wf := by decide
  rw [execOpen_long 7 (by decide), openImage_frame]
  have hn : (decryptImage 7 beforeOpen).NONCE = nonceP3 := by
    show (Vector.ofFn fun i : Fin 12 => beforeOpen.FB.read i.val) = nonceP3
    decide +kernel
  unfold validCountAt
  simp only [decryptImage_read hw, hn]
  decide +kernel

/-- O4: too short. -/
theorem test_open_short : exec (.openVault 7) { beforeOpen with FLEN := 25615 } =
    .next { beforeOpen with FLEN := 25615, RESULT := 3 } := by rfl

/-- T1 to T8, the count's bytes least significant first. -/
theorem test_validate : ([(0, 0, 0, 0), (0x63, 0, 0, 0), (0x64, 0, 0, 0), (0x65, 0, 0, 0), (0, 1, 0, 0),
      (0, 0, 1, 0), (0, 0, 0, 0x80), (0xff, 0xff, 0xff, 0xff)] : List (Byte × Byte × Byte × Byte)).map
    (fun (a, b, c, d) => validCount a b c d) = [true, true, true, false, false, false, false, false] := by
  decide +kernel

/-- T4 as a command. -/
theorem test_validate_command : goesTo (exec .validate { State.reset with VM := [(0, 0x65)] })
    (fun t => t.RESULT == 5 && statusWord t == 0x00004000) = true := by decide +kernel

/-! ## The host's side -/

/-- H1 to H8. -/
theorem test_bus_errors : ([.read32 0x00000, .write32 0x00004 0, .write32 0x00008 0, .read8 0x0000C,
      .read32 0x00080, .write8 0x00080 0, .write32 0x00070 0, .read32 0x00042, .read32 0x00018,
      .read8 0x000EC, .read8 0x00120, .read8 0x16404, .read8 0x26410, .read16 0x00080] :
      List HostEvent).any (fun e => goesTo (step (pending e)) fun _ => true) = false := by decide +kernel

/-- H9, H12: accesses that complete. -/
theorem test_bus_reads : goesTo (step (pending (.read8 0x16403))) (fun t => t.response == .value8 0) = true ∧
    goesTo (step (pending (.read8 0x2640F))) (fun t => t.response == .value8 0) = true ∧
    goesTo (step { loaded (rising 32 0) nonceT 1 with bus := [.read32 0x00070] })
      (fun t => t.response == .value32 1) = true := by decide +kernel

/-- H10, H11. -/
theorem test_bus_writes :
    goesTo (step (pending (.write32 0x0000C 0xDEADBEEF))) (fun t => t.CTR0 == 0xDEADBEEF) = true ∧
    goesTo (step (pending (.write8 0x000C0 0xAB))) (fun t => t.KEY[0] == 0xAB) = true := by decide +kernel

/-- B1. -/
theorem test_status_after_reset : statusWord State.reset = 0x00004000 := by decide

/-- R190: a reset of a loaded engine. -/
theorem test_reset_event : goesTo (step { zeroLoaded with bus := [.reset], RESULT := 5, FLEN := 9 })
    (fun t => statusWord t == 0x00004000 && t.RESULT == 0 && t.FLEN == 0) = true := by decide +kernel

/-- P1 steps 1, 6 and 8 as transactions. -/
theorem test_script_lines :
    (ScriptLine.wrs .PW 0 "ab").events ⟨0⟩ = [.write8 0x00100 0x61, .write8 0x00101 0x62] ∧
    (ScriptLine.encrypt 5).events ⟨0⟩ = [.write32 0x00000 0x00000503] ∧
    (ScriptLine.rd .S 12).events ⟨0⟩ = [.read32 0x00070] := by decide +kernel

/-- R77: an ENTROPY line after a SEAL is for the next one; the SEAL before it takes the free answer. -/
theorem test_script_entropy_after_seal :
    (State.reset.withScript [.command (.sealVault 7), .entropy .fail, .command (.sealVault 7)]).entropy =
      [freeAnswer 0, .fail] := by rfl

/-- P3 steps 3 and 4. -/
theorem test_script_entropy_before_seal :
    (State.reset.withScript [.entropy (.ok nonceP3), .command (.sealVault 7)]).entropy = [.ok nonceP3] := by
  rfl

/-! ## Witnesses: a concrete state and operands that meet the hypotheses of each statement

A statement with several clauses has one conjunct per clause, at the boundary of its range. -/

theorem witness_DecodeInvertsEncode : (Instr.xorStream 16777215).wellFormed = true ∧
    (Instr.derive 0).wellFormed = true ∧ Instr.init.wellFormed = true := by decide

theorem witness_DecodedWordIsItsEncoding : decode 0xFFFFFF03 = .command (.xorStream 16777215) := by decide

theorem witness_IllegalWordWritesOnlyResult :
    (∀ r ∈ opcodeMap, r.selects 0x00000101 = false) ∧ (∀ r ∈ opcodeMap, r.selects 0x00000004 = false) := by
  decide

theorem witness_StepRunsTheDecodedCommand :
    ((pending (.write32 0x00000 0x00000022)).bus = .write32 0x00000 0x00000022 :: [] ∧
      decode 0x00000022 = .command .validate) ∧
    (0xFFFFFF03 < 2 ^ 32 ∧ decodeTableWord 32 0xFFFFFF03 = some (.xorStream 16777215)) := by decide

theorem witness_IdleBlockHoldsItsState : State.reset.bus = [] := rfl

theorem witness_StepTakesExactlyTheOldestEvent :
    (∃ t, step (pending (.read32 0x00004)) = .next t) ∧ (∃ t, step (pending (.write32 0 1)) = .next t) ∧
    (∃ t, step (pending .reset) = .next t) := ⟨⟨_, rfl⟩, ⟨_, rfl⟩, ⟨_, rfl⟩⟩

/-- Two passwords that agree below 31 and differ at 31; and `len = 32`. -/
theorem witness_DeriveSeesOnlyThePasswordPrefix :
    (∀ (i : Nat) (h : i < 32), i < 31 → (passwordK.PW.set 31 0)[i] = passwordK.PW[i]) ∧
    passwordK.PW.set 31 0 ≠ passwordK.PW ∧ 32 ≤ 32 := by decide +kernel

theorem witness_DeriveWritesTheNormalisedKey : 31 < 32 ∧ opField 0xFFFFFF10 = 0x10 ∧
    opField 0x00000010 = 0x10 := by decide

theorem witness_InitLoadsTheEngine : 7 < 8 ∧ 2 < 3 ∧
    (opField 0x00000001 = 0x01 ∧ immField 0x00000001 = 0) ∧
    (opField 0x00000101 = 0x01 ∧ immField 0x00000101 ≠ 0) := by decide

theorem witness_RotationsLoseNoBit : ([16, 12, 8, 7] : List Nat).all (· ∈ [16, 12, 8, 7]) = true ∧ 31 < 32 := by
  decide

theorem witness_QuarterRoundFollowsItsSteps : ([2, 7, 8, 13] : List (Fin 16)).Nodup ∧
    (0 : Fin 16) ∉ ([2, 7, 8, 13] : List (Fin 16)) := by decide

theorem witness_DoubleRoundOrder : ([0, 4, 8, 12, 3, 7, 11, 15] : List (Fin 16)).Nodup := by decide

theorem witness_BlockSerialisesTheFeedForward : 15 < 16 ∧ 3 < 4 := by decide

theorem witness_NextBlockGeneratesOneBlock : zeroLoaded.INITED = true ∧ State.reset.INITED = false ∧
    (opField 0x00000002 = 0x02 ∧ immField 0x00000002 = 0) ∧
    (opField 0xFFFFFF02 = 0x02 ∧ immField 0xFFFFFF02 ≠ 0) := by decide

theorem witness_KeystreamBlockSequence : ∃ t, exec .init passwordK = .next t := ⟨_, rfl⟩

/-- C1b: nonce word 0 wraps to 0. -/
theorem witness_WrappedStreamMeetsItsNeighbour :
    let nonce : Vector Byte 12 := #v[0xff, 0xff, 0xff, 0xff, 0, 0, 0, 0x4a, 0, 0, 0, 0]
    let nonce' : Vector Byte 12 := #v[0, 0, 0, 0, 0, 0, 0, 0x4a, 0, 0, 0, 0]
    (0xFFFFFFFF : Word).toNat + 1 = 2 ^ 32 + 0 ∧ nonceWord nonce' 0 = nonceWord nonce 0 + 1 ∧
    nonceWord nonce' 1 = nonceWord nonce 1 ∧ nonceWord nonce' 2 = nonceWord nonce 2 := by decide +kernel

/-- The three cases; the range ends at `25616`, where one byte more is out of range. -/
theorem witness_XorStreamEffect : State.reset.INITED = false ∧
    (let s := { zeroLoaded with DPTR := 25616 }
     s.INITED = true ∧ fileSize s.config < s.DPTR.toNat + 1) ∧
    (let s := { zeroLoaded with DPTR := 25616 }
     s.INITED = true ∧ s.DPTR.toNat + 0 ≤ fileSize s.config ∧ s.POS.toNat ≤ 64 ∧ s.FB.wf) ∧
    (let s := { zeroLoaded with DPTR := 25615, POS := 0 }
     s.INITED = true ∧ s.DPTR.toNat + 1 ≤ fileSize s.config ∧ s.POS.toNat ≤ 64 ∧ s.FB.wf) := by
  decide +kernel

theorem witness_XorStreamContinues :
    let s := { zeroLoaded with DPTR := 25614 }
    s.INITED = true ∧ s.DPTR.toNat + (1 + 1) ≤ fileSize s.config := by decide +kernel

/-- The second state `u` is the first run's end state. -/
theorem witness_XorStreamIsItsOwnInverse :
    let s : State := { State.reset with DPTR := 25615 }
    s.FB.wf ∧ s.DPTR.toNat + 1 ≤ fileSize s.config ∧
    ∃ s1 u : State, exec .init s = .next s1 ∧ exec (.xorStream 1) s1 = .next u ∧ u.KEY = s.KEY ∧
      u.NONCE = s.NONCE ∧ u.CTR0 = s.CTR0 ∧ u.DPTR = s.DPTR ∧ u.config = s.config ∧ u.FB = u.FB :=
  ⟨by decide, by decide, _, _, rfl, execXorStream_in_range rfl (by decide), rfl, rfl, rfl, rfl, rfl, rfl⟩

theorem witness_RunningStreamIgnoresNewKeys :
    ∃ t, exec (.xorStream 1) { zeroLoaded with DPTR := 25615 } = .next t := ⟨_, rfl⟩

theorem witness_SealWritesTheImage : beforeSeal.FB.wf ∧ entropyHangs beforeSeal = false ∧
    entropyReply beforeSeal = some nonceP3 ∧ 11 < 12 ∧ 25603 < vaultSize beforeSeal.config ∧
    fileSize beforeSeal.config ≤ 25616 := by decide +kernel

theorem witness_SealWithoutEntropyChangesOnlyResult :
    let s := { State.reset with entropy := [.fail] }
    entropyHangs s = false ∧ entropyReply s = none := by decide

theorem witness_SealStepsExactlyWhenAnswered :
    entropyHangs { State.reset with entropy := [.noAnswer] } = true ∧ entropyHangs State.reset = false := by
  decide

/-- `FLEN` just below, and at, `FILE_SIZE`; an image whose count is accepted and one whose count is not. -/
theorem witness_OpenDecryptsTheImage :
    (let s := { State.reset with FLEN := 25615 }
     s.FLEN.toNat < fileSize s.config) ∧
    (let s := { State.reset with FLEN := 25616 }
     fileSize s.config ≤ s.FLEN.toNat ∧ s.FB.wf ∧ s.VM.wf) ∧
    validCountAt [(12, 100)] 12 = true ∧ validCountAt [(12, 101)] 12 = false := by decide +kernel

/-- The second state `u` is the state SEAL leaves. -/
theorem witness_OpenInvertsSeal : beforeSeal.FB.wf ∧ entropyHangs beforeSeal = false ∧
    entropyReply beforeSeal = some nonceP3 ∧
    (∃ u : State, exec (.sealVault 7) beforeSeal = .next u ∧ u.config = beforeSeal.config ∧
      u.PW = beforeSeal.PW ∧ u.FB = u.FB ∧ u.FLEN = u.FLEN ∧ u.VM.wf) ∧
    validCountAt [(0, 100)] 0 = true ∧ validCountAt [(0, 101)] 0 = false :=
  ⟨by decide, rfl, rfl, ⟨_, execSeal_answered 7 rfl rfl, rfl, rfl, rfl, rfl, Memory.wf_nil⟩,
    by decide +kernel, by decide +kernel⟩

theorem witness_TamperedByteIsUndetected : beforeOpen.FB.wf ∧
    fileSize beforeOpen.config ≤ beforeOpen.FLEN.toNat ∧ 16 ≤ 25615 ∧ 25615 < fileSize beforeOpen.config ∧
    ∃ t, exec (.openVault 7) beforeOpen = .next t :=
  ⟨by decide, by decide, by decide, by decide, _, execOpen_long 7 (by decide)⟩

theorem witness_CodecDiscardsItsContext :
    (entropyReply beforeSeal = some nonceP3 ∧ ∃ t, exec (.sealVault 7) beforeSeal = .next t) ∧
    (fileSize beforeOpen.config ≤ beforeOpen.FLEN.toNat ∧
      ∃ t, exec (.openVault 7) beforeOpen = .next t) :=
  ⟨⟨rfl, _, execSeal_answered 7 rfl rfl⟩, by decide, _, execOpen_long 7 (by decide)⟩

theorem witness_CodecIgnoresTheOldContext : (∃ e, entropyReply beforeSeal = some e) ∧
    fileSize beforeOpen.config ≤ beforeOpen.FLEN.toNat := ⟨⟨_, rfl⟩, by decide⟩

/-- A streaming engine in the middle of a block, `FB[3]` in use, meets the invariant. -/
theorem witness_Inv_streaming :
    ({ zeroLoaded with POS := 5, FB := [(3, 7)], RESULT := 0x82 } : State).Inv where
  cursor_bound := by decide
  uninitialized_cursor := fun h => by cases h
  constants := fun _ => by decide +kernel
  result_code := ⟨.rangeError, by decide, rfl⟩
  vm_wf := Memory.wf_nil
  vm_within := Memory.within_nil _
  fb_wf := by decide
  fb_within := by decide +kernel

/-- A ready engine meets the invariant. -/
theorem witness_Inv_ready : zeroLoaded.Inv where
  cursor_bound := by decide
  uninitialized_cursor := fun h => by cases h
  constants := fun _ => by decide +kernel
  result_code := ⟨.ok, by decide, rfl⟩
  vm_wf := Memory.wf_nil
  vm_within := Memory.within_nil _
  fb_wf := Memory.wf_nil
  fb_within := Memory.within_nil _

/-- An engine not yet initialised, its password loaded, meets the invariant. -/
theorem witness_Inv_uninitialized : ({ passwordK with RESULT := 0x81 } : State).Inv where
  cursor_bound := by decide
  uninitialized_cursor := fun _ => rfl
  constants := fun h => by cases h
  result_code := ⟨.sequenceError, by decide, rfl⟩
  vm_wf := Memory.wf_nil
  vm_within := Memory.within_nil _
  fb_wf := Memory.wf_nil
  fb_within := Memory.within_nil _

theorem witness_StepKeepsInvariant :
    ∃ t, ({ zeroLoaded with POS := 5, FB := [(3, 7)], RESULT := 0x82 } : State).Inv ∧
      step { zeroLoaded with POS := 5, FB := [(3, 7)], RESULT := 0x82 } = .next t :=
  ⟨_, witness_Inv_streaming, rfl⟩

/-- One conjunct per row of R16's table; each state meets the invariant by the three theorems above. -/
theorem witness_PhaseTransitionTable :
    let off : State := { passwordK with RESULT := 0x81 }
    let mid : State := { zeroLoaded with POS := 5, FB := [(3, 7)], RESULT := 0x82 }
    (∃ t, exec (.derive 2) mid = .next t) ∧ (∃ t, exec .validate mid = .next t) ∧
    (∃ t, exec .init off = .next t) ∧
    (∃ t, exec .nextBlock off = .next t ∧ phase off = .uninitialized) ∧
    (∃ t, exec .nextBlock mid = .next t ∧ phase mid = .streaming) ∧
    (∃ t, exec (.xorStream 1) off = .next t ∧ phase off = .uninitialized) ∧
    (∃ t, exec (.xorStream 25617) mid = .next t ∧ phase mid ≠ .uninitialized ∧
      fileSize mid.config < mid.DPTR.toNat + 25617) ∧
    (∃ t, exec (.xorStream 0) zeroLoaded = .next t ∧ phase zeroLoaded = .ready ∧
      zeroLoaded.DPTR.toNat ≤ fileSize zeroLoaded.config) ∧
    (∃ t, exec (.xorStream 59) mid = .next t ∧ 0 < 59 ∧ mid.DPTR.toNat + 59 ≤ fileSize mid.config) ∧
    (∃ t, exec (.sealVault 7) { mid with entropy := [.fail] } = .next t) ∧
    (∃ t, exec (.openVault 7) mid = .next t) ∧
    (∃ why t, decode 0x00000101 = .illegal why ∧ issue 0x00000101 mid = .next t) :=
  ⟨⟨_, rfl⟩, ⟨_, rfl⟩, ⟨_, rfl⟩, ⟨_, rfl, rfl⟩, ⟨_, rfl, rfl⟩, ⟨_, rfl, rfl⟩,
    ⟨_, rfl, by decide, by decide⟩, ⟨_, rfl, rfl, by decide⟩, ⟨_, rfl, by decide, by decide⟩, ⟨_, rfl⟩,
    ⟨_, rfl⟩, ⟨.immNotZero, _, by decide, rfl⟩⟩

/-- Every command answers a next state somewhere. -/
theorem witness_ResultCodesByCommand :
    (∃ t, exec .init zeroLoaded = .next t) ∧ (∃ t, exec .nextBlock zeroLoaded = .next t) ∧
    (∃ t, exec (.xorStream 1) zeroLoaded = .next t) ∧ (∃ t, exec (.derive 0) zeroLoaded = .next t) ∧
    (∃ t, exec (.sealVault 7) beforeSeal = .next t) ∧ (∃ t, exec (.openVault 7) beforeOpen = .next t) ∧
    (∃ t, exec .validate zeroLoaded = .next t) :=
  ⟨⟨_, rfl⟩, ⟨_, rfl⟩, ⟨_, rfl⟩, ⟨_, rfl⟩, ⟨_, execSeal_answered 7 rfl rfl⟩,
    ⟨_, execOpen_long 7 (by decide)⟩, ⟨_, rfl⟩⟩

theorem witness_CipherWordsWriters : (∃ t, exec .nextBlock zeroLoaded = .next t) ∧ 11 < 16 ∧ 14 ≠ 12 ∧ 14 ≠ 13 ∧
    ∃ t, exec .validate zeroLoaded = .next t := ⟨⟨_, rfl⟩, by decide, by decide, by decide, _, rfl⟩

theorem witness_CommandsLeaveTheHostsRegisters : (∃ t, exec (.sealVault 7) beforeSeal = .next t) ∧
    (∀ len, Instr.sealVault 7 ≠ .openVault len) ∧ (∀ len, Instr.validate ≠ .sealVault len) :=
  ⟨⟨_, execSeal_answered 7 rfl rfl⟩, by simp, by simp⟩

/-- The four codes and VALIDATE. -/
theorem witness_RefusedCommandChangesOnlyResult :
    (∃ t, exec (.sealVault 0) { State.reset with entropy := [.fail] } = .next t ∧ t.RESULT = 0x01) ∧
    (∃ t, exec (.openVault 0) State.reset = .next t ∧ t.RESULT = 0x03) ∧
    (∃ t, exec .nextBlock State.reset = .next t ∧ t.RESULT = 0x81) ∧
    (∃ t, exec (.xorStream 1) { zeroLoaded with DPTR := 25616 } = .next t ∧ t.RESULT = 0x82) ∧
    (∃ t, exec .validate { State.reset with VM := [(0, 101)] } = .next t) :=
  ⟨⟨_, rfl, rfl⟩, ⟨_, rfl, rfl⟩, ⟨_, rfl, rfl⟩, ⟨_, rfl, by decide⟩, ⟨_, rfl⟩⟩

theorem witness_StatusFields : (pending (.read32 0x00004)).bus = .read32 0x00004 :: [] ∧
    (pending (.write32 0x00004 0)).bus = .write32 0x00004 0 :: [] := ⟨rfl, rfl⟩

theorem witness_HostReadsDeliverTheMap : 15 < 16 ∧ 63 < 64 ∧ 31 < 32 ∧ 11 < 12 ∧
    25603 < vaultSize State.reset.config ∧ 25615 < fileSize State.reset.config := by decide

theorem witness_HostWritesReplaceOneLocation : 31 < 32 ∧ 11 < 12 ∧
    25603 < vaultSize State.reset.config ∧ 25615 < fileSize State.reset.config ∧
    State.reset.VM.wf ∧ State.reset.FB.wf := by decide

theorem witness_HostCannotWriteTheEngine :
    let s := pending (.write32 0x00010 12)
    s.bus = .write32 0x00010 12 :: [] ∧ (∀ w, HostEvent.write32 0x00010 12 ≠ .write32 0x00000 w) ∧
    HostEvent.write32 0x00010 12 ≠ .reset ∧ ∃ t, step s = .next t :=
  ⟨rfl, by simp, by simp, _, rfl⟩

theorem witness_ResetLeavesDefiniteControlState : (pending .reset).bus = .reset :: [] := rfl

theorem witness_BufferWriteIsExact : Memory.wf [(0, 1), (25615, 0xff)] ∧
    ∀ i, Memory.read [(0, 1), (25615, 0xff)] i = Memory.read [(0, 1), (25615, 0xff)] i :=
  ⟨by decide, fun _ => rfl⟩

end Sys2Proof.Tests
end

section
/-! PROOFS. The scope family: the large buffers that R7's assignments `X[i] <- v` write. -/

namespace Sys2Proof.Machine

/-- Settles O46: a write of a canonical buffer by the read-after-write and canonical-form laws of
`Memory.write`; equality because no canonical buffer lists a byte that reads as `unlisted`. -/
theorem bufferWriteIsExact : Obligations.BufferWriteIsExact := by
  refine ⟨fun m i v hm => ⟨?keepsForm, fun j => ?readAfterWrite⟩, fun m k hm hk hread => ?readAlike⟩
  case keepsForm => exact Memory.wf_write hm i v
  case readAfterWrite => exact Memory.read_write hm i j v
  case readAlike => exact Memory.ext_of_read hm hk hread

end Sys2Proof.Machine
end

section
/-! PROOFS. The state family, facts: the step and the host's transactions said once, the map's rows by their
location, the phase. -/

namespace Sys2Proof.Machine

/-! ### The step and the host's transactions -/

theorem step_of_bus {s : State} {e : HostEvent} {rest : List HostEvent} (h : s.bus = e :: rest) :
    step s = hostEvent e { s with bus := rest } := by
  rw [step, h]

/-- A step either idles or performs the oldest pending event (R47, R171). -/
theorem step_cases {s t : State} (h : step s = .next t) :
    (s.bus = [] ∧ t = s) ∨
    ∃ e rest, s.bus = e :: rest ∧ hostEvent e { s with bus := rest } = .next t := by
  cases hb : s.bus with
  | nil =>
    rw [step, hb] at h
    cases h
    exact .inl ⟨rfl, rfl⟩
  | cons e rest => exact .inr ⟨e, rest, rfl, step_of_bus hb ▸ h⟩

/-- What a host event can do: record a byte or a word read, store a byte, store a word, or reset (R41, R53,
R190). -/
theorem hostEvent_cases {e : HostEvent} {s t : State} (h : hostEvent e s = .next t) :
    (∃ a r, e = .read8 a ∧ readTarget s.config .byte a = some r ∧
      t = delivered (.value8 (byteValue s (r.index a) r.what)) s) ∨
    (∃ a r, e = .read32 a ∧ readTarget s.config .word a = some r ∧
      t = delivered (.value32 (wordValue s (r.index a) r.what)) s) ∨
    (∃ a v r, e = .write8 a v ∧ writeTarget s.config .byte a = some r ∧
      t = storeByte (delivered .written s) (r.index a) v r.what) ∨
    (∃ a v r, e = .write32 a v ∧ writeTarget s.config .word a = some r ∧
      storeWord (delivered .written s) v r.what = .next t) ∨
    (e = .reset ∧ t = applyReset s) := by
  cases e with
  | read8 a =>
    simp only [hostEvent] at h
    split at h <;> cases h
    next r hr => exact .inl ⟨a, r, rfl, hr, rfl⟩
  | read32 a =>
    simp only [hostEvent] at h
    split at h <;> cases h
    next r hr => exact .inr (.inl ⟨a, r, rfl, hr, rfl⟩)
  | write8 a v =>
    simp only [hostEvent] at h
    split at h <;> cases h
    next r hr => exact .inr (.inr (.inl ⟨a, v, r, rfl, hr, rfl⟩))
  | write32 a v =>
    simp only [hostEvent] at h
    split at h
    next r hr => exact .inr (.inr (.inr (.inl ⟨a, v, r, rfl, hr, h⟩)))
    next => cases h
  | read16 a | write16 a v => cases h
  | reset =>
    cases h
    exact .inr (.inr (.inr (.inr ⟨rfl, rfl⟩)))

/-- A stored word is a command issued, or the new value of the one register named (R22 to R24, R27). -/
theorem storeWord_cases {l : Location} {v : Word} {s t : State} (h : storeWord s v l = .next t) :
    (l = .CMD ∧ issue v s = .next t) ∨
    t = { s with
      CTR0 := if l = .CTR0 then v else s.CTR0
      DPTR := if l = .DPTR then v else s.DPTR
      FLEN := if l = .FLEN then v else s.FLEN } := by
  cases l with
  | CMD => exact .inl ⟨rfl, h⟩
  | _ => cases h; exact .inr rfl

/-- A stored byte reaches the five byte buffers only (R17 to R21). -/
theorem storeByte_frame (s : State) (i : Nat) (v : Byte) (l : Location) :
    storeByte s i v l = { s with
      KEY := (storeByte s i v l).KEY, NONCE := (storeByte s i v l).NONCE, PW := (storeByte s i v l).PW,
      VM := (storeByte s i v l).VM, FB := (storeByte s i v l).FB } := by
  cases l <;> rfl

/-! ### The map's rows -/

/-- A location stands in one row of the map only (R40). -/
theorem hostMap_what_inj {c : Config} {r r' : Region} (hr : r ∈ hostMap c) (hr' : r' ∈ hostMap c)
    (h : r.what = r'.what) : r = r' := by
  have hn : ((hostMap c).map Region.what).Nodup := by simp [hostMap]
  exact List.inj_on_of_nodup_map hn hr hr' h

/-- A write to `CMD` is a write to its address (R40). -/
theorem writeTarget_CMD_address {c : Config} {w : Width} {a : Nat} {r : Region}
    (h : writeTarget c w a = some r) (hl : r.what = .CMD) : a = 0x00000 := by
  obtain ⟨hr, ha, -, -⟩ := (writeTarget_eq_some_iff c w a r).mp h
  have hrow : r = ⟨.CMD, 0x00000, 1, .word, false, true⟩ :=
    hostMap_what_inj hr (by simp [hostMap]) hl
  rw [hrow, Region.holds_iff] at ha
  simp only [Width.bytes] at ha
  omega

theorem writeTarget_CMD (c : Config) :
    writeTarget c .word 0x00000 = some ⟨.CMD, 0x00000, 1, .word, false, true⟩ :=
  (writeTarget_eq_some_iff ..).mpr ⟨by simp [hostMap], by decide, rfl, rfl⟩

/-- A byte written in the row of a large buffer has its index inside the buffer (R40). -/
theorem writeTarget_index_lt {c : Config} {w : Width} {a : Nat} {r r' : Region}
    (h : writeTarget c w a = some r) (hr' : r' ∈ hostMap c) (hl : r.what = r'.what) :
    r.index a < r'.count := by
  obtain ⟨hr, ha, -, -⟩ := (writeTarget_eq_some_iff c w a r).mp h
  exact hostMap_what_inj hr hr' hl ▸ Region.index_lt ha

theorem locate_STATUS (c : Config) :
    locate c 0x00004 = some ⟨.STATUS, 0x00004, 1, .word, true, false⟩ :=
  (locate_eq_some_iff ..).mpr ⟨by simp [hostMap], by decide⟩

theorem readTarget_STATUS (c : Config) :
    readTarget c .word 0x00004 = some ⟨.STATUS, 0x00004, 1, .word, true, false⟩ := by
  rw [readTarget, locate_STATUS]
  rfl

theorem writeTarget_STATUS (c : Config) (w : Width) : writeTarget c w 0x00004 = none := by
  rw [writeTarget, locate_STATUS]
  simp

/-! ### The phase -/

theorem phase_eq_uninitialized_iff (s : State) : phase s = .uninitialized ↔ s.INITED = false := by
  unfold phase
  split
  · simp [*]
  · split <;> simp [*]

theorem phase_of_inited {s : State} (h : s.INITED = true) :
    phase s = if s.POS.toNat < 64 then .streaming else .ready := by
  rw [phase, if_neg (by simp [h])]

theorem inited_of_phase_ne {s : State} (h : phase s ≠ .uninitialized) : s.INITED = true := by
  rwa [Ne, phase_eq_uninitialized_iff, Bool.not_eq_false] at h

/-- The phase reads `INITED` and the cursor only (R15). -/
theorem phase_congr {s t : State} (hI : t.INITED = s.INITED) (hp : t.POS = s.POS) :
    phase t = phase s := by
  rw [phase, phase, hI, hp]

end Sys2Proof.Machine
end

section
/-! PROOFS. The state family, the invariant: every shared operation keeps it, so every command, every host
transaction and every step does (10_state.md R11, R14, R15; 60_exceptions.md R160, R170). -/

namespace Sys2Proof.Machine

/-! ### The operations commands are made of -/

theorem raise_keeps_inv {e : ResultCode} {s : State} (he : e ∈ blockCodes) (h : s.Inv) :
    (raise e s).Inv :=
  { h with result_code := ⟨e, he, rfl⟩ }

theorem done_keeps_inv {s : State} (h : s.Inv) : (done s).Inv :=
  { h with result_code := ⟨.ok, by decide, rfl⟩ }

theorem takeEntropy_keeps_inv {s : State} (h : s.Inv) : (takeEntropy s).Inv := { h with }

theorem setNonce_keeps_inv (e : Vector Byte 12) {s : State} (h : s.Inv) :
    ({ s with NONCE := e } : State).Inv := { h with }

theorem setFLEN_keeps_inv (v : Word) {s : State} (h : s.Inv) : ({ s with FLEN := v } : State).Inv :=
  { h with }

theorem deriveKey_keeps_inv (len : Nat) {s : State} (h : s.Inv) : (deriveKey len s).Inv := { h with }

theorem delivered_keeps_inv (r : BusResponse) {s : State} (h : s.Inv) : (delivered r s).Inv := { h with }

/-- `init` puts the constants in place (R101, R106). -/
theorem initEngine_keeps_inv (c : Word) {s : State} (h : s.Inv) : (initEngine c s).Inv :=
  { h with
    cursor_bound := Nat.le_refl 64
    uninitialized_cursor := fun _ => rfl
    constants := fun _ => by
      simp only [initEngine_S, initWords_get]
      exact ⟨rfl, rfl, rfl, rfl⟩ }

theorem discard_keeps_inv {s : State} (h : s.Inv) : (discard s).Inv :=
  { h with
    cursor_bound := Nat.le_refl 64
    uninitialized_cursor := fun _ => rfl
    constants := fun hI => by cases hI }

/-- A block generated leaves the cursor, and of the cipher words the counter's two alone change (R105). -/
theorem generate_keeps_inv {s : State} (h : s.Inv) : (setDatapath (generate (datapathOf s)) s).Inv :=
  { h with
    constants := fun hI => by
      simpa (disch := decide) only [setDatapath_S, generate_S, datapathOf_S, advance_other]
        using h.constants hI }

/-- The stream datapath on bytes inside `FB`, the engine initialised (R120). -/
theorem xorBytes_keeps_inv {off n : Nat} {s : State} (hI : s.INITED = true)
    (hr : off + n ≤ fileSize s.config) (h : s.Inv) :
    (setDatapath (xorBytes off n (datapathOf s)) s).Inv :=
  have heff := xorBytes_effect off n (s := datapathOf s) h.cursor_bound h.fb_wf
  { h with
    cursor_bound := by
      have hb := h.cursor_bound
      have hc := heff.cursor
      rw [datapathOf_POS] at hc
      rw [setDatapath_POS, hc]
      split <;> omega
    uninitialized_cursor := fun hI' => by simp [hI] at hI'
    constants := fun _ => by
      simpa (disch := decide) only [setDatapath_S, xorBytes_S_other, datapathOf_S] using h.constants hI
    fb_wf := heff.canonical
    fb_within := xorBytes_within h.fb_within hr }

theorem layImage_keeps_inv {s : State} (h : s.Inv) : (layImage s).Inv :=
  { h with
    fb_wf := layImage_wf h.fb_wf
    fb_within := layImage_within h.fb_within }

theorem loadVault_keeps_inv {s : State} (h : s.Inv) : (loadVault s).Inv :=
  { h with
    vm_wf := Memory.wf_writeRun h.vm_wf ..
    vm_within := Memory.within_writeRun h.vm_within _ _ _ (Nat.zero_add _).le }

theorem cryptImage_keeps_inv {s : State} (h : s.Inv) : (cryptImage s).Inv :=
  xorBytes_keeps_inv (s := initEngine 0 s) rfl (Nat.le_refl (fileSize s.config))
    (initEngine_keeps_inv 0 h)

theorem sealImage_keeps_inv (e : Vector Byte 12) (len : Nat) {s : State} (h : s.Inv) :
    (sealImage e len s).Inv :=
  have hlaid := layImage_keeps_inv (deriveKey_keeps_inv len (setNonce_keeps_inv e h))
  done_keeps_inv (discard_keeps_inv (setFLEN_keeps_inv _ (cryptImage_keeps_inv hlaid)))

theorem decryptImage_keeps_inv (len : Nat) {s : State} (h : s.Inv) : (decryptImage len s).Inv :=
  cryptImage_keeps_inv (setNonce_keeps_inv _ (deriveKey_keeps_inv len h))

theorem openImage_keeps_inv (len : Nat) {s : State} (h : s.Inv) : (openImage len s).Inv := by
  have hd := decryptImage_keeps_inv len h
  unfold openImage
  dsimp only
  split
  · exact done_keeps_inv (discard_keeps_inv (loadVault_keeps_inv hd))
  · exact raise_keeps_inv (by decide) (discard_keeps_inv hd)

/-! ### Commands, transactions, steps -/

theorem exec_keeps_inv {i : Instr} {s t : State} (h : s.Inv) (ht : exec i s = .next t) : t.Inv := by
  cases i with
  | init =>
    obtain rfl := execInit_cases ht
    exact done_keeps_inv (initEngine_keeps_inv _ h)
  | nextBlock =>
    obtain ⟨-, rfl⟩ | ⟨-, rfl⟩ := execNextBlock_cases ht
    · exact done_keeps_inv (generate_keeps_inv h)
    · exact raise_keeps_inv (by decide) h
  | xorStream n =>
    obtain ⟨-, rfl⟩ | ⟨-, -, rfl⟩ | ⟨hI, hr, rfl⟩ := execXorStream_cases ht
    · exact raise_keeps_inv (by decide) h
    · exact raise_keeps_inv (by decide) h
    · exact done_keeps_inv (xorBytes_keeps_inv hI hr h)
  | derive len =>
    obtain rfl := execDerive_cases ht
    exact done_keeps_inv (deriveKey_keeps_inv len h)
  | sealVault len =>
    obtain ⟨-, ⟨-, rfl⟩ | ⟨e, -, rfl⟩⟩ := execSeal_cases ht
    · exact raise_keeps_inv (by decide) (takeEntropy_keeps_inv h)
    · exact sealImage_keeps_inv e len (takeEntropy_keeps_inv h)
  | openVault len =>
    obtain ⟨-, rfl⟩ | ⟨-, rfl⟩ := execOpen_cases ht
    · exact raise_keeps_inv (by decide) h
    · exact openImage_keeps_inv len h
  | validate =>
    obtain ⟨-, rfl⟩ | ⟨-, rfl⟩ := execValidate_cases ht
    · exact done_keeps_inv h
    · exact raise_keeps_inv (by decide) h

theorem issue_keeps_inv {w : Word} {s t : State} (h : s.Inv) (ht : issue w s = .next t) : t.Inv := by
  obtain ⟨i, -, hi⟩ | ⟨-, -, rfl⟩ := issue_cases ht
  · exact exec_keeps_inv h hi
  · exact raise_keeps_inv (by decide) h

/-- The bounds on the index are what the map's rows give (`writeTarget_index_lt`). -/
theorem storeByte_keeps_inv {s : State} {i : Nat} (v : Byte) {l : Location} (h : s.Inv)
    (hVM : l = .VM → i < vaultSize s.config) (hFB : l = .FB → i < fileSize s.config) :
    (storeByte s i v l).Inv := by
  cases l with
  | VM =>
    exact { h with
      vm_wf := Memory.wf_write h.vm_wf i v
      vm_within := Memory.within_write h.vm_within (hVM rfl) v }
  | FB =>
    exact { h with
      fb_wf := Memory.wf_write h.fb_wf i v
      fb_within := Memory.within_write h.fb_within (hFB rfl) v }
  | _ => exact { h with }

theorem storeWord_keeps_inv {l : Location} {v : Word} {s t : State} (h : s.Inv)
    (ht : storeWord s v l = .next t) : t.Inv := by
  obtain ⟨-, hw⟩ | rfl := storeWord_cases ht
  · exact issue_keeps_inv h hw
  · exact { h with }

/-- A reset meets the invariant whatever the free contents are (R32, R190). -/
theorem applyReset_inv (s : State) : (applyReset s).Inv where
  cursor_bound := Nat.le_refl 64
  uninitialized_cursor := fun _ => rfl
  constants := fun hI => by cases hI
  result_code := ⟨.ok, by decide, rfl⟩
  vm_wf := Memory.wf_writeRun Memory.wf_nil ..
  vm_within := Memory.within_writeRun (Memory.within_nil _) _ _ _ (Nat.zero_add _).le
  fb_wf := Memory.wf_writeRun Memory.wf_nil ..
  fb_within := Memory.within_writeRun (Memory.within_nil _) _ _ _ (Nat.zero_add _).le

theorem hostEvent_keeps_inv {e : HostEvent} {s t : State} (h : s.Inv) (ht : hostEvent e s = .next t) :
    t.Inv := by
  obtain ⟨a, r, -, -, rfl⟩ | ⟨a, r, -, -, rfl⟩ | ⟨a, v, r, -, hr, rfl⟩ | ⟨a, v, r, -, -, hw⟩ | ⟨-, rfl⟩ :=
    hostEvent_cases ht
  · exact delivered_keeps_inv _ h
  · exact delivered_keeps_inv _ h
  · exact storeByte_keeps_inv v (delivered_keeps_inv _ h)
      (writeTarget_index_lt hr (r' := ⟨.VM, 0x10000, vaultSize s.config, .byte, true, true⟩)
        (by simp [hostMap]))
      (writeTarget_index_lt hr (r' := ⟨.FB, 0x20000, fileSize s.config, .byte, true, true⟩)
        (by simp [hostMap]))
  · exact storeWord_keeps_inv (delivered_keeps_inv _ h) hw
  · exact applyReset_inv s

/-- Settles O33, by cases on what the step performs; a pending event's removal leaves the block alone. -/
theorem stepKeepsInvariant : Obligations.StepKeepsInvariant := by
  intro s t h ht
  obtain ⟨-, rfl⟩ | ⟨e, rest, -, he⟩ := step_cases ht
  case inl => exact h
  case inr =>
    have hrest : ({ s with bus := rest } : State).Inv := { h with }
    exact hostEvent_keeps_inv hrest he

/-- Settles O34: the engine is uninitialised, both buffers are empty. -/
theorem resetMeetsInvariant : Obligations.ResetMeetsInvariant where
  cursor_bound := Nat.le_refl 64
  uninitialized_cursor := fun _ => rfl
  constants := fun hI => by cases hI
  result_code := ⟨.ok, by decide, rfl⟩
  vm_wf := Memory.wf_nil
  vm_within := Memory.within_nil _
  fb_wf := Memory.wf_nil
  fb_within := Memory.within_nil _

end Sys2Proof.Machine
end

section
/-! PROOFS. The state family, commands: the phase-transition table (10_state.md R16), the writers of the cipher
state (R11, R12), and the registers that are the host's (R19 to R24). -/

namespace Sys2Proof.Machine

/-! ### The rows of R16 -/

theorem phase_initEngine (c : Word) (s : State) : phase (done (initEngine c s)) = .ready := rfl

theorem phase_sealImage (e : Vector Byte 12) (len : Nat) (s : State) :
    phase (sealImage e len s) = .uninitialized := by
  rw [phase_eq_uninitialized_iff, sealImage_frame]

theorem phase_openImage (len : Nat) (s : State) : phase (openImage len s) = .uninitialized := by
  rw [phase_eq_uninitialized_iff, openImage_frame]

/-- The row of NEXT_BLOCK (R16). -/
theorem execNextBlock_phase {s t : State} (ht : exec .nextBlock s = .next t) :
    phase t = phase s ∧ t.POS = s.POS ∧ (phase s = .uninitialized → t = { s with RESULT := 0x81 }) := by
  obtain ⟨hI, rfl⟩ | ⟨hI, rfl⟩ := execNextBlock_cases ht
  · exact ⟨phase_congr rfl rfl, rfl, fun hp => by simp [(phase_eq_uninitialized_iff s).mp hp] at hI⟩
  · exact ⟨phase_congr rfl rfl, rfl, fun _ => rfl⟩

/-- The row of XOR_STREAM in Uninitialized (R16). -/
theorem execXorStream_of_uninitialized {n : Nat} {s t : State} (ht : exec (.xorStream n) s = .next t)
    (hp : phase s = .uninitialized) : t = { s with RESULT := 0x81 } := by
  rw [execXorStream_uninitialized n ((phase_eq_uninitialized_iff s).mp hp)] at ht
  cases ht
  rfl

/-- The row of XOR_STREAM out of range (R16). -/
theorem execXorStream_of_out_of_range {n : Nat} {s t : State} (ht : exec (.xorStream n) s = .next t)
    (hp : phase s ≠ .uninitialized) (hr : fileSize s.config < s.DPTR.toNat + n) :
    t = { s with RESULT := 0x82 } := by
  rw [execXorStream_out_of_range (inited_of_phase_ne hp) hr] at ht
  cases ht
  rfl

/-- The row of XOR_STREAM on no bytes (R16). -/
theorem execXorStream_zero_phase {s t : State} (ht : exec (.xorStream 0) s = .next t)
    (hp : phase s ≠ .uninitialized) (hr : s.DPTR.toNat ≤ fileSize s.config) :
    phase t = phase s ∧ t.POS = s.POS := by
  rw [execXorStream_in_range (inited_of_phase_ne hp) hr, xorBytes_zero, setDatapath_datapathOf] at ht
  cases ht
  exact ⟨phase_congr rfl rfl, rfl⟩

/-- The row of XOR_STREAM on bytes in range, with R16's formula for the cursor. -/
theorem execXorStream_pos_phase {n : Nat} {s t : State} (hinv : s.Inv)
    (ht : exec (.xorStream n) s = .next t) (hp : phase s ≠ .uninitialized) (hn : 0 < n)
    (hr : s.DPTR.toNat + n ≤ fileSize s.config) :
    t.POS.toNat = (s.POS.toNat + n - 1) % 64 + 1 ∧
      phase t = if t.POS.toNat < 64 then .streaming else .ready := by
  have hI := inited_of_phase_ne hp
  have hcursor := (xorBytes_effect s.DPTR.toNat n (s := datapathOf s) hinv.cursor_bound hinv.fb_wf).cursor
  rw [if_neg hn.ne'] at hcursor
  rw [execXorStream_in_range hI hr] at ht
  cases ht
  exact ⟨hcursor, phase_of_inited hI⟩

/-- Settles O35, row by row by what each command does when it answers. -/
theorem phaseTransitionTable : Obligations.PhaseTransitionTable := by
  intro s hinv
  refine ⟨fun len t ht => ?derive, fun t ht => ?validate, fun t ht => ?init, fun t ht => ?nextBlock,
    fun n t ht => ?xorStream, fun len t ht => ?sealVault, fun len t ht => ?openVault,
    fun w why t hw ht => ?illegal⟩
  case derive =>
    obtain rfl := execDerive_cases ht
    exact ⟨phase_congr rfl rfl, rfl⟩
  case validate =>
    obtain ⟨-, rfl⟩ | ⟨-, rfl⟩ := execValidate_cases ht <;> exact ⟨phase_congr rfl rfl, rfl⟩
  case init =>
    obtain rfl := execInit_cases ht
    exact phase_initEngine _ s
  case nextBlock => exact execNextBlock_phase ht
  case xorStream =>
    refine ⟨execXorStream_of_uninitialized ht, execXorStream_of_out_of_range ht, ?_,
      execXorStream_pos_phase hinv ht⟩
    rintro hp rfl
    exact execXorStream_zero_phase ht hp
  case sealVault =>
    obtain ⟨-, ⟨-, rfl⟩ | ⟨e, -, rfl⟩⟩ := execSeal_cases ht
    · exact .inr ⟨rfl, phase_congr rfl rfl, rfl⟩
    · exact .inl (phase_sealImage e len _)
  case openVault =>
    obtain ⟨-, rfl⟩ | ⟨-, rfl⟩ := execOpen_cases ht
    · exact .inr ⟨rfl, rfl⟩
    · exact .inl (phase_openImage len s)
  case illegal =>
    rw [issue, hw] at ht
    cases ht
    exact ⟨phase_congr rfl rfl, rfl⟩

/-! ### The writers of the cipher state -/

theorem execNextBlock_S_other {s t : State} (ht : exec .nextBlock s = .next t) (k : Nat) (hk : k < 16)
    (h12 : k ≠ 12) (h13 : k ≠ 13) : t.S[k] = s.S[k] := by
  obtain ⟨-, rfl⟩ | ⟨-, rfl⟩ := execNextBlock_cases ht
  · exact advance_other s.S k hk h12 h13
  · rfl

theorem execXorStream_S_other {n : Nat} {s t : State} (ht : exec (.xorStream n) s = .next t) (k : Nat)
    (hk : k < 16) (h12 : k ≠ 12) (h13 : k ≠ 13) : t.S[k] = s.S[k] := by
  obtain ⟨-, rfl⟩ | ⟨-, -, rfl⟩ | ⟨-, -, rfl⟩ := execXorStream_cases ht
  · rfl
  · rfl
  · exact xorBytes_S_other s.DPTR.toNat n (datapathOf s) k hk h12 h13

theorem execSeal_S {len : Nat} {s t : State} (ht : exec (.sealVault len) s = .next t) :
    t.S = Vector.replicate 16 0 ∨ t.S = s.S := by
  obtain ⟨-, ⟨-, rfl⟩ | ⟨e, -, rfl⟩⟩ := execSeal_cases ht
  · exact .inr rfl
  · exact .inl (by rw [sealImage_frame])

theorem execOpen_S {len : Nat} {s t : State} (ht : exec (.openVault len) s = .next t) :
    t.S = Vector.replicate 16 0 ∨ t.S = s.S := by
  obtain ⟨-, rfl⟩ | ⟨-, rfl⟩ := execOpen_cases ht
  · exact .inr rfl
  · exact .inl (by rw [openImage_frame])

/-- Settles O36: only ADVANCE, inside block generation, and the discard reach `S` in these commands. -/
theorem cipherWordsWriters : Obligations.CipherWordsWriters := by
  intro i s t ht
  refine ⟨?keep, ?counter, ?codec⟩
  case keep =>
    rintro (⟨len, rfl⟩ | rfl)
    · obtain rfl := execDerive_cases ht
      rfl
    · obtain ⟨-, rfl⟩ | ⟨-, rfl⟩ := execValidate_cases ht <;> rfl
  case counter =>
    rintro (rfl | ⟨n, rfl⟩)
    · exact execNextBlock_S_other ht
    · exact execXorStream_S_other ht
  case codec =>
    rintro (⟨len, rfl⟩ | ⟨len, rfl⟩)
    · exact execSeal_S ht
    · exact execOpen_S ht

/-! ### The host's registers -/

/-- Settles O37, command by command from what each can do; the codec's by its frame equations. -/
theorem commandsLeaveTheHostsRegisters : Obligations.CommandsLeaveTheHostsRegisters := by
  intro i s t ht
  cases i with
  | init =>
    obtain rfl := execInit_cases ht
    simp
  | nextBlock => obtain ⟨-, rfl⟩ | ⟨-, rfl⟩ := execNextBlock_cases ht <;> simp
  | xorStream n => obtain ⟨-, rfl⟩ | ⟨-, -, rfl⟩ | ⟨-, -, rfl⟩ := execXorStream_cases ht <;> simp
  | derive len =>
    obtain rfl := execDerive_cases ht
    simp
  | sealVault len =>
    obtain ⟨-, ⟨-, rfl⟩ | ⟨e, -, rfl⟩⟩ := execSeal_cases ht
    · simp
    · rw [sealImage_frame]
      simp
  | openVault len =>
    obtain ⟨-, rfl⟩ | ⟨-, rfl⟩ := execOpen_cases ht
    · simp
    · rw [openImage_frame]
      simp
  | validate => obtain ⟨-, rfl⟩ | ⟨-, rfl⟩ := execValidate_cases ht <;> simp

end Sys2Proof.Machine
end

section
/-! PROOFS. The state family, the host's side: `STATUS` (10_state.md R26), the registers no transaction writes
(R12 to R14, R25), the issue of a command (R27, R28), and what a reset leaves (R32). -/

namespace Sys2Proof.Machine

/-! ### STATUS -/

/-- The four parts of the word, each found by dropping the parts below it (R26). -/
theorem statusWord_fields (s : State) :
    (statusWord s).extractLsb' 0 2 = (phase s).number ∧ (statusWord s).extractLsb' 2 6 = 0 ∧
    (statusWord s).extractLsb' 8 7 = s.POS ∧ (statusWord s).extractLsb' 15 17 = 0 := by
  unfold statusWord
  refine ⟨BitVec.extractLsb'_append_eq_right, ?reserved, ?cursor, ?high⟩
  case reserved =>
    rw [BitVec.extractLsb'_append_eq_of_le (by decide)]
    exact BitVec.extractLsb'_append_eq_right
  case cursor =>
    rw [BitVec.extractLsb'_append_eq_of_le (by decide), BitVec.extractLsb'_append_eq_of_le (by decide)]
    exact BitVec.extractLsb'_append_eq_right
  case high =>
    rw [BitVec.extractLsb'_append_eq_of_le (by decide), BitVec.extractLsb'_append_eq_of_le (by decide)]
    exact BitVec.extractLsb'_append_eq_left

theorem phase_number_ne_three (p : Phase) : p.number ≠ 3 := by
  cases p <;> decide

/-- Settles O40: the fields by the word's concatenation, the accesses by the map's row of `STATUS`. -/
theorem statusFields : Obligations.StatusFields := by
  refine ⟨fun s => ?fields, fun s rest h => ?read, fun s v rest h => ?write, by decide⟩
  case fields =>
    obtain ⟨hphase, hreserved, hcursor, hhigh⟩ := statusWord_fields s
    exact ⟨hphase, phase_number_ne_three _, hreserved, hcursor, hhigh⟩
  case read =>
    rw [step_of_bus h, hostEvent, readTarget_STATUS]
    rfl
  case write => rw [step_of_bus h, hostEvent, writeTarget_STATUS]

/-! ### The registers no transaction writes -/

/-- A stored byte misses what the host can only read, the parameter and the entropy answers (R12 to
R14, R25). -/
theorem storeByte_engine (s : State) (i : Nat) (v : Byte) (l : Location) :
    let t := storeByte s i v l
    t.S = s.S ∧ t.KS = s.KS ∧ t.POS = s.POS ∧ t.INITED = s.INITED ∧ t.RESULT = s.RESULT ∧
      t.config = s.config ∧ t.entropy = s.entropy := by
  dsimp only
  rw [storeByte_frame]
  simp

/-- Settles O43: of the events left, a read records its value, a byte write reaches the byte buffers, a word
write that is no issue reaches the three word registers. -/
theorem hostCannotWriteTheEngine : Obligations.HostCannotWriteTheEngine := by
  intro s t e rest hbus hcmd hreset ht
  rw [step_of_bus hbus] at ht
  obtain ⟨a, r, -, -, rfl⟩ | ⟨a, r, -, -, rfl⟩ | ⟨a, v, r, -, -, rfl⟩ | ⟨a, v, r, rfl, hr, hw⟩ | ⟨rfl, -⟩ :=
    hostEvent_cases ht
  · simp
  · simp
  · exact storeByte_engine ..
  · obtain ⟨hl, -⟩ | rfl := storeWord_cases hw
    · exact absurd (writeTarget_CMD_address hr hl ▸ rfl) (hcmd v)
    · simp
  · exact absurd rfl hreset

/-! ### The issue of a command -/

theorem decodeCommand?_eq_some_iff (w : Word) (i : Instr) :
    decodeCommand? w = some i ↔ decode w = .command i := by
  unfold decodeCommand?
  cases decode w <;> simp

theorem issue_command {w : Word} {i : Instr} (h : decode w = .command i) (s : State) :
    issue w s = exec i s := by
  rw [issue, h]

theorem step_write_CMD {s : State} {w : Word} {rest : List HostEvent}
    (h : s.bus = .write32 0x00000 w :: rest) :
    step s = issue w { s with bus := rest, response := .written } := by
  rw [step_of_bus h, hostEvent, writeTarget_CMD]
  rfl

/-- Settles O6: a write to `CMD` reaches `issue`, and `withFetchWord` is that write. -/
theorem stepRunsTheDecodedCommand : Obligations.StepRunsTheDecodedCommand := by
  refine ⟨fun s w rest h => step_write_CMD h, fun s w rest i h hd => ?command, fun s w i _ hd => ?fetch⟩
  case command => rw [step_write_CMD h, issue_command hd]
  case fetch =>
    have hbus : (s.withFetchWord 32 w).bus = .write32 0x00000 (tableWord 32 w) :: s.bus := rfl
    rw [step_write_CMD hbus, issue_command ((decodeCommand?_eq_some_iff _ i).mp hd)]
    rfl

/-! ### Reset -/

/-- Settles O45: the step on a reset is `applyReset`, by its fields. -/
theorem resetLeavesDefiniteControlState : Obligations.ResetLeavesDefiniteControlState := by
  refine ⟨fun s rest h => ⟨applyReset { s with bus := rest }, step_of_bus h, ?_⟩, by decide⟩
  simp [phase_eq_uninitialized_iff]

end Sys2Proof.Machine
end

section
/-! PROOFS. The memory family: one step on each host transaction by the map's rows (20_memory.md R40, R41, R44),
the accesses that are bus errors (R43, R53), and the order of the host's events (R47). -/

namespace Sys2Proof.Machine

/-! ### The queue -/

theorem exec_bus_config {i : Instr} {s t : State} (h : exec i s = .next t) :
    t.bus = s.bus ∧ t.config = s.config := by
  obtain ⟨-, -, -, hconfig, -, -, hbus, -⟩ := commandsLeaveTheHostsRegisters i s t h
  exact ⟨hbus, hconfig⟩

theorem issue_bus_config {w : Word} {s t : State} (h : issue w s = .next t) :
    t.bus = s.bus ∧ t.config = s.config := by
  obtain ⟨i, -, hi⟩ | ⟨-, -, rfl⟩ := issue_cases h
  · exact exec_bus_config hi
  · exact ⟨rfl, rfl⟩

/-- No host event puts another into the queue or reaches the parameter (R31, R47). -/
theorem hostEvent_bus_config {e : HostEvent} {s t : State} (h : hostEvent e s = .next t) :
    t.bus = s.bus ∧ t.config = s.config := by
  obtain ⟨a, r, -, -, rfl⟩ | ⟨a, r, -, -, rfl⟩ | ⟨a, v, r, -, -, rfl⟩ | ⟨a, v, r, -, -, hw⟩ | ⟨-, rfl⟩ :=
    hostEvent_cases h
  · exact ⟨rfl, rfl⟩
  · exact ⟨rfl, rfl⟩
  · rw [storeByte_frame]
    exact ⟨rfl, rfl⟩
  · obtain ⟨-, hi⟩ | rfl := storeWord_cases hw
    · exact issue_bus_config (s := delivered .written s) hi
    · exact ⟨rfl, rfl⟩
  · exact ⟨rfl, rfl⟩

/-- Settles O8: the step takes the event off the queue, and performing it touches neither the queue nor the
parameter. -/
theorem stepTakesExactlyTheOldestEvent : Obligations.StepTakesExactlyTheOldestEvent := by
  intro s t e rest hbus ht
  rw [step_of_bus hbus] at ht
  exact hostEvent_bus_config ht

/-! ### One transaction at a location of the map -/

/-- A read of byte `i` of a readable byte row (R40, R41). -/
theorem step_read8_row {s : State} {rest : List HostEvent} (l : Location) {b n i : Nat} {v : Byte} (hi : i < n)
    (hv : byteValue s i l = v)
    (hr : ∃ canWrite, ⟨l, b, n, .byte, true, canWrite⟩ ∈ hostMap s.config := by simp [hostMap]) :
    step { s with bus := .read8 (b + i) :: rest } = .next { s with bus := rest, response := .value8 v } := by
  obtain ⟨canWrite, hr⟩ := hr
  have htarget := (readTarget_eq_some_iff s.config .byte (b + i) _).mpr
    ⟨hr, holds_byte_row _ _ _ _ _ _ hi, rfl, rfl⟩
  rw [step_of_bus rfl, hostEvent, htarget]
  dsimp only
  rw [index_byte_row, ← hv]
  rfl

/-- A read of word `i` of a readable word row (R40, R41). -/
theorem step_read32_row {s : State} {rest : List HostEvent} (l : Location) {b n i : Nat} {v : Word} (hi : i < n)
    (hv : wordValue s i l = v)
    (hr : ∃ canWrite, ⟨l, b, n, .word, true, canWrite⟩ ∈ hostMap s.config := by simp [hostMap]) :
    step { s with bus := .read32 (b + 4 * i) :: rest } =
      .next { s with bus := rest, response := .value32 v } := by
  obtain ⟨canWrite, hr⟩ := hr
  have htarget := (readTarget_eq_some_iff s.config .word (b + 4 * i) _).mpr
    ⟨hr, holds_word_row _ _ _ _ _ _ hi, rfl, rfl⟩
  rw [step_of_bus rfl, hostEvent, htarget]
  dsimp only
  rw [index_word_row, ← hv]
  rfl

/-- A write of byte `i` of a writable byte row (R40, R41). -/
theorem step_write8_row {s t : State} {rest : List HostEvent} (l : Location) {b n i : Nat} {v : Byte}
    (hi : i < n) (ht : storeByte { s with bus := rest, response := .written } i v l = t)
    (hr : ∃ canRead, ⟨l, b, n, .byte, canRead, true⟩ ∈ hostMap s.config := by simp [hostMap]) :
    step { s with bus := .write8 (b + i) v :: rest } = .next t := by
  obtain ⟨canRead, hr⟩ := hr
  have htarget := (writeTarget_eq_some_iff s.config .byte (b + i) _).mpr
    ⟨hr, holds_byte_row _ _ _ _ _ _ hi, rfl, rfl⟩
  rw [step_of_bus rfl, hostEvent, htarget]
  dsimp only
  rw [index_byte_row, ← ht]
  rfl

/-- A write of a writable register (R40, R41). -/
theorem step_write32_row {s : State} {rest : List HostEvent} (l : Location) {b : Nat} {v : Word}
    (hr : ∃ canRead, ⟨l, b, 1, .word, canRead, true⟩ ∈ hostMap s.config := by simp [hostMap]) :
    step { s with bus := .write32 b v :: rest } =
      storeWord { s with bus := rest, response := .written } v l := by
  obtain ⟨canRead, hr⟩ := hr
  have htarget := (writeTarget_eq_some_iff s.config .word b _).mpr
    ⟨hr, holds_word_row _ _ _ 0 _ _ Nat.one_pos, rfl, rfl⟩
  rw [step_of_bus rfl, hostEvent, htarget]
  rfl

theorem setByteAt_eq {n : Nat} (v : Vector Byte n) {i : Nat} (b : Byte) (h : i < n) :
    setByteAt v i b = v.set i b :=
  Vector.ext fun j hj => by rw [setByteAt, Vector.getElem_setIfInBounds hj, Vector.getElem_set]

/-- Settles O41, row by row: the value of a location is its register, or its buffer at an index inside it. -/
theorem hostReadsDeliverTheMap : Obligations.HostReadsDeliverTheMap := by
  intro s rest reads32 reads8
  exact ⟨step_read32_row .STATUS (i := 0) Nat.one_pos rfl, step_read32_row .RESULT (i := 0) Nat.one_pos rfl,
    step_read32_row .CTR0 (i := 0) Nat.one_pos rfl, step_read32_row .DPTR (i := 0) Nat.one_pos rfl,
    step_read32_row .FLEN (i := 0) Nat.one_pos rfl,
    fun i h => step_read32_row .S h (wordAt_eq s.S i h),
    fun i h => step_read8_row .KS h (byteAt_eq s.KS i h),
    fun i h => step_read8_row .KEY h (byteAt_eq s.KEY i h),
    fun i h => step_read8_row .NONCE h (byteAt_eq s.NONCE i h),
    fun i h => step_read8_row .PW h (byteAt_eq s.PW i h),
    fun i h => step_read8_row .VM h rfl,
    fun i h => step_read8_row .FB h rfl⟩

/-- Settles O42, row by row: a store at an index inside its row replaces that element; in the large buffers this
is the read-after-write law. -/
theorem hostWritesReplaceOneLocation : Obligations.HostWritesReplaceOneLocation := by
  intro s rest v b after writes32 writes8
  exact ⟨step_write32_row .CTR0, step_write32_row .DPTR, step_write32_row .FLEN,
    fun i h => step_write8_row .KEY h (by rw [storeByte, setByteAt_eq _ b h]),
    fun i h => step_write8_row .NONCE h (by rw [storeByte, setByteAt_eq _ b h]),
    fun i h => step_write8_row .PW h (by rw [storeByte, setByteAt_eq _ b h]),
    fun i h => ⟨s.VM.write i b, step_write8_row .VM h rfl,
      fun hwf => ⟨Memory.wf_write hwf i b, fun j => Memory.read_write hwf i j b⟩⟩,
    fun i h => ⟨s.FB.write i b, step_write8_row .FB h rfl,
      fun hwf => ⟨Memory.wf_write hwf i b, fun j => Memory.read_write hwf i j b⟩⟩⟩

/-! ### The bus errors -/

/-- A command answers, or it is a SEAL that hangs (R195); none is refused. -/
theorem exec_ne_refused (i : Instr) (s : State) (why : Refusal) : exec i s ≠ .refused why := by
  cases i with
  | sealVault len =>
    rw [exec, execSeal]
    split <;> exact nofun
  | _ => exact nofun

/-- Once the map accepts a word write, nothing refuses it: an illegal word ends with its code (R74). -/
theorem storeWord_ne_refused (s : State) (v : Word) (l : Location) (why : Refusal) :
    storeWord s v l ≠ .refused why := by
  cases l with
  | CMD =>
    rw [storeWord, issue]
    split
    · exact exec_ne_refused _ s why
    · exact nofun
  | _ => exact nofun

section
variable (s : State) (rest : List HostEvent) (a : Nat)

theorem step_read8_refused_iff : step { s with bus := .read8 a :: rest } = .refused .busError ↔
    readTarget s.config .byte a = none := by
  rw [step_of_bus rfl, hostEvent]
  cases readTarget s.config .byte a <;> simp

theorem step_read32_refused_iff : step { s with bus := .read32 a :: rest } = .refused .busError ↔
    readTarget s.config .word a = none := by
  rw [step_of_bus rfl, hostEvent]
  cases readTarget s.config .word a <;> simp

theorem step_write8_refused_iff (v : Byte) :
    step { s with bus := .write8 a v :: rest } = .refused .busError ↔
      writeTarget s.config .byte a = none := by
  rw [step_of_bus rfl, hostEvent]
  cases writeTarget s.config .byte a <;> simp

theorem step_write32_refused_iff (v : Word) :
    step { s with bus := .write32 a v :: rest } = .refused .busError ↔
      writeTarget s.config .word a = none := by
  rw [step_of_bus rfl, hostEvent]
  cases writeTarget s.config .word a <;> simp [storeWord_ne_refused]

end

theorem readTarget_eq_none_iff (c : Config) (w : Width) (a : Nat) : readTarget c w a = none ↔
    ¬ ∃ r ∈ hostMap c, r.holds a = true ∧ r.width = w ∧ r.canRead = true := by
  simp only [Option.eq_none_iff_forall_ne_some, Ne, readTarget_eq_some_iff, not_exists]

theorem writeTarget_eq_none_iff (c : Config) (w : Width) (a : Nat) : writeTarget c w a = none ↔
    ¬ ∃ r ∈ hostMap c, r.holds a = true ∧ r.width = w ∧ r.canWrite = true := by
  simp only [Option.eq_none_iff_forall_ne_some, Ne, writeTarget_eq_some_iff, not_exists]

/-- The readable registers, and the sixteen words of `S` at multiples of 4 (R40, R43). -/
theorem readable_words_iff (c : Config) (a : Nat) :
    (∃ r ∈ hostMap c, r.holds a = true ∧ r.width = .word ∧ r.canRead = true) ↔
      a ∈ [0x00004, 0x00008, 0x0000C, 0x00010, 0x00014] ∨ ∃ i, i < 16 ∧ a = 0x00040 + 4 * i := by
  have hS : (∃ i, i < 16 ∧ a = 0x00040 + 4 * i) ↔ 0x00040 ≤ a ∧ a < 0x00080 ∧ a % 4 = 0 :=
    ⟨by rintro ⟨i, hi, rfl⟩; omega, fun h => ⟨(a - 0x00040) / 4, by omega, by omega⟩⟩
  rw [hS]
  simp only [hostMap, List.mem_cons, List.not_mem_nil, exists_eq_or_imp, exists_eq_left, Region.holds_iff,
    Width.bytes, reduceCtorEq, Bool.false_eq_true, and_true, and_false, false_or, or_false]
  omega

theorem writable_words_iff (c : Config) (a : Nat) :
    (∃ r ∈ hostMap c, r.holds a = true ∧ r.width = .word ∧ r.canWrite = true) ↔
      a ∈ [0x00000, 0x0000C, 0x00010, 0x00014] := by
  simp only [hostMap, List.mem_cons, List.not_mem_nil, exists_eq_or_imp, exists_eq_left, Region.holds_iff,
    Width.bytes, reduceCtorEq, Bool.false_eq_true, and_true, and_false, false_or, or_false]
  omega

/-- `KS`, `KEY` and `NONCE` adjoin, so their bytes are one range; then `PW`, `VM`, `FB` (R40). -/
theorem readable_bytes_iff (c : Config) (a : Nat) :
    (∃ r ∈ hostMap c, r.holds a = true ∧ r.width = .byte ∧ r.canRead = true) ↔
      (0x00080 ≤ a ∧ a < 0x000EC) ∨ (0x00100 ≤ a ∧ a < 0x00120) ∨
        (0x10000 ≤ a ∧ a < 0x10000 + vaultSize c) ∨ (0x20000 ≤ a ∧ a < 0x20000 + fileSize c) := by
  simp only [hostMap, List.mem_cons, List.not_mem_nil, exists_eq_or_imp, exists_eq_left, Region.holds_iff,
    Width.bytes, reduceCtorEq, Bool.false_eq_true, and_true, and_false, false_or, or_false]
  omega

/-- As for reads, without `KS` (R40). -/
theorem writable_bytes_iff (c : Config) (a : Nat) :
    (∃ r ∈ hostMap c, r.holds a = true ∧ r.width = .byte ∧ r.canWrite = true) ↔
      (0x000C0 ≤ a ∧ a < 0x000EC) ∨ (0x00100 ≤ a ∧ a < 0x00120) ∨
        (0x10000 ≤ a ∧ a < 0x10000 + vaultSize c) ∨ (0x20000 ≤ a ∧ a < 0x20000 + fileSize c) := by
  simp only [hostMap, List.mem_cons, List.not_mem_nil, exists_eq_or_imp, exists_eq_left, Region.holds_iff,
    Width.bytes, reduceCtorEq, Bool.false_eq_true, and_true, and_false, false_or, or_false]
  omega

/-- Settles O44: an access is refused exactly where no row of its width and with the right holds the address. -/
theorem busErrorsExactly : Obligations.BusErrorsExactly := by
  intro s rest a v b h
  dsimp only
  refine ⟨?read32, ?write32, ?read8, ?write8, rfl, rfl⟩
  case read32 => rw [step_read32_refused_iff, readTarget_eq_none_iff, readable_words_iff]
  case write32 => rw [step_write32_refused_iff, writeTarget_eq_none_iff, writable_words_iff]
  case read8 => rw [step_read8_refused_iff, readTarget_eq_none_iff, readable_bytes_iff]
  case write8 => rw [step_write8_refused_iff, writeTarget_eq_none_iff, writable_bytes_iff]

end Sys2Proof.Machine
end

section
/-! PROOFS. The encoding family: the decoder by the two fields of a word, the opcode map's rows by the decoder
(30_encoding.md R70 to R75). -/

namespace Sys2Proof.Machine
open Laws.EncodedFields (opcode length)

/-! ### Commands and words by their fields -/

/-- A statement about some command, constructor by constructor (R73). -/
theorem exists_instr_iff {p : Instr → Prop} : (∃ i, p i) ↔
    p .init ∨ p .nextBlock ∨ (∃ n, p (.xorStream n)) ∨ (∃ n, p (.derive n)) ∨ (∃ n, p (.sealVault n)) ∨
      (∃ n, p (.openVault n)) ∨ p .validate := by
  constructor
  · rintro ⟨_ | _ | n | n | n | n | _, h⟩
    · exact .inl h
    · exact .inr (.inl h)
    · exact .inr (.inr (.inl ⟨n, h⟩))
    · exact .inr (.inr (.inr (.inl ⟨n, h⟩)))
    · exact .inr (.inr (.inr (.inr (.inl ⟨n, h⟩))))
    · exact .inr (.inr (.inr (.inr (.inr (.inl ⟨n, h⟩)))))
    · exact .inr (.inr (.inr (.inr (.inr (.inr h)))))
  · rintro (h | h | ⟨n, h⟩ | ⟨n, h⟩ | ⟨n, h⟩ | ⟨n, h⟩ | h) <;> exact ⟨_, h⟩

theorem wellFormed_iff (i : Instr) : i.wellFormed = true ↔ length i < 2 ^ 24 := by
  cases i <;> simp [Instr.wellFormed, lengthFits, length]

/-- The fields of a command's word, from the one lemma per command (R71, R73). -/
theorem encode_fields (i : Instr) (h : i.wellFormed = true) :
    opField (encode i) = opcode i ∧ (immField (encode i)).toNat = length i := by
  cases i with
  | init => exact Laws.EncodedFields.init h
  | nextBlock => exact Laws.EncodedFields.nextBlock h
  | xorStream n => exact Laws.EncodedFields.xorStream n h
  | derive len => exact Laws.EncodedFields.derive len h
  | sealVault len => exact Laws.EncodedFields.sealVault len h
  | openVault len => exact Laws.EncodedFields.openVault len h
  | validate => exact Laws.EncodedFields.validate h

/-- Two words with the same fields are one word: the fields leave no bit over (R70). -/
theorem word_ext {v w : Word} (hop : opField v = opField w) (himm : (immField v).toNat = (immField w).toNat) :
    v = w :=
  BitVec.eq_of_toNat_eq (by rw [word_eq_fields v, word_eq_fields w, hop, himm])

theorem immField_toNat_eq_zero_iff (w : Word) : (immField w).toNat = 0 ↔ immField w = 0 :=
  BitVec.toNat_inj (y := 0)

/-! ### The decoder -/

theorem formatZ_eq_command_iff (imm : Nat) (i j : Instr) :
    formatZ imm i = .command j ↔ i = j ∧ imm = 0 := by
  unfold formatZ
  split <;> simp [*]

/-- The decoder reads a command exactly from its opcode and its length operand (R71, R73). -/
theorem decode_eq_command_iff (w : Word) (i : Instr) :
    decode w = .command i ↔ opField w = opcode i ∧ (immField w).toNat = length i := by
  constructor
  · intro h
    unfold decode at h
    split at h <;> simp only [formatZ_eq_command_iff, Decoded.command.injEq, reduceCtorEq] at h
    case h_1 hop | h_2 hop | h_7 hop =>
      obtain ⟨rfl, himm⟩ := h
      exact ⟨BitVec.eq_of_toNat_eq hop, himm⟩
    case h_3 hop | h_4 hop | h_5 hop | h_6 hop =>
      subst h
      exact ⟨BitVec.eq_of_toNat_eq hop, rfl⟩
  · rintro ⟨hop, himm⟩
    cases i <;> simp [decode, formatZ, hop, himm, opcode, length]

/-- Settles O1: the fields of the encoded word are the ones the decoder reads the command from. -/
theorem decodeInvertsEncode : Obligations.DecodeInvertsEncode :=
  fun i h => (decode_eq_command_iff _ i).mpr (encode_fields i h)

/-- Settles O2: the word and the encoding have the same two fields. -/
theorem decodedWordIsItsEncoding : Obligations.DecodedWordIsItsEncoding := by
  intro w i h
  obtain ⟨hop, himm⟩ := (decode_eq_command_iff w i).mp h
  have hwf : i.wellFormed = true := (wellFormed_iff i).mpr (himm ▸ (immField w).isLt)
  obtain ⟨hop', himm'⟩ := encode_fields i hwf
  exact ⟨hwf, word_ext (hop'.trans hop.symm) (himm'.trans himm.symm)⟩

/-- The words that decode to a command: any `imm` above a format L opcode, zero above a format Z opcode
(R71, R73). -/
theorem decodes_iff (w : Word) : (∃ i, decode w = .command i) ↔
    opField w ∈ ([0x03, 0x10, 0x20, 0x21] : List Byte) ∨
      (opField w ∈ ([0x01, 0x02, 0x22] : List Byte) ∧ immField w = 0) := by
  simp only [decode_eq_command_iff, exists_instr_iff, opcode, length, immField_toNat_eq_zero_iff,
    exists_and_left, exists_eq', and_true, List.mem_cons, List.not_mem_nil, or_false]
  tauto

theorem illegal_iff (w : Word) : (∃ why, decode w = .illegal why) ↔ ¬ ∃ i, decode w = .command i := by
  cases decode w <;> simp

/-! ### The opcode map -/

/-- A row's mask and match compare field by field (R73). -/
theorem selects_iff_fields (r : OpcodeRow) (w : Word) : r.selects w = true ↔
    opField w &&& opField r.maskBits = opField r.matchBits ∧
      immField w &&& immField r.maskBits = immField r.matchBits := by
  have hop : opField (w &&& r.maskBits) = opField w &&& opField r.maskBits := BitVec.extractLsb'_and
  have himm : immField (w &&& r.maskBits) = immField w &&& immField r.maskBits := BitVec.extractLsb'_and
  rw [OpcodeRow.selects, beq_iff_eq, ← hop, ← himm]
  exact ⟨fun h => by rw [h]; exact ⟨rfl, rfl⟩, fun ⟨h, h'⟩ => word_ext h (congrArg _ h')⟩

/-- A row of the map selects the words that decode to the command it names (R73). -/
theorem selects_iff_decode {r : OpcodeRow} (hr : r ∈ opcodeMap) (w : Word) :
    r.selects w = true ↔ ∃ i, decode w = .command i ∧ r.mnemonic = i.mnemonic := by
  have hop (b : Byte) : b &&& 255#8 = b := BitVec.and_allOnes
  have himm (b : BitVec 24) : b &&& 16777215#24 = b := BitVec.and_allOnes
  simp only [selects_iff_fields, decode_eq_command_iff, exists_instr_iff, opcode, length,
    immField_toNat_eq_zero_iff]
  simp only [opcodeMap, List.mem_cons, List.not_mem_nil, or_false] at hr
  rcases hr with rfl | rfl | rfl | rfl | rfl | rfl | rfl <;>
    simp [Instr.mnemonic, opField, immField, hop, himm]

/-- Every command has its row (R73). -/
theorem exists_row (i : Instr) : ∃ r ∈ opcodeMap, r.mnemonic = i.mnemonic := by
  cases i <;> simp [opcodeMap, Instr.mnemonic]

/-- A mnemonic stands in one row of the map only (R73). -/
theorem opcodeMap_mnemonic_inj {r r' : OpcodeRow} (hr : r ∈ opcodeMap) (hr' : r' ∈ opcodeMap)
    (h : r.mnemonic = r'.mnemonic) : r = r' := by
  have hn : (opcodeMap.map OpcodeRow.mnemonic).Nodup := by decide
  exact List.inj_on_of_nodup_map hn hr hr' h

/-- No row selects a word exactly when the word is illegal (R74). -/
theorem no_row_selects_iff (w : Word) :
    (∀ r ∈ opcodeMap, r.selects w = false) ↔ ∃ why, decode w = .illegal why := by
  rw [illegal_iff]
  constructor
  · rintro h ⟨i, hi⟩
    obtain ⟨r, hr, hm⟩ := exists_row i
    exact Bool.eq_false_iff.mp (h r hr) ((selects_iff_decode hr w).mpr ⟨i, hi, hm⟩)
  · intro h r hr
    rw [Bool.eq_false_iff, Ne, selects_iff_decode hr]
    rintro ⟨i, hi, -⟩
    exact h ⟨i, hi⟩

/-- Settles O3: the decoded command's row is selected, and any other selected row has its mnemonic; an illegal
word selects none. -/
theorem everyWordIsOneRowOrIllegal : Obligations.EveryWordIsOneRowOrIllegal := by
  intro w
  cases hd : decode w with
  | command i =>
    obtain ⟨r, hr, hm⟩ := exists_row i
    refine .inl ⟨i, r, rfl, hr, (selects_iff_decode hr w).mpr ⟨i, hd, hm⟩, hm, fun r' hr' h => ?_⟩
    obtain ⟨i', hi', hm'⟩ := (selects_iff_decode hr' w).mp h
    obtain rfl : i' = i := Decoded.command.inj (hi'.symm.trans hd)
    exact opcodeMap_mnemonic_inj hr' hr (hm'.trans hm.symm)
  | illegal why => exact .inr ⟨why, rfl, (no_row_selects_iff w).mpr ⟨why, hd⟩⟩

theorem issue_illegal {w : Word} {why : IllegalWord} (h : decode w = .illegal why) (s : State) :
    issue w s = .next (raise .illegalCommand s) := by
  rw [issue, h]

/-- Settles O4: the words no row selects are the illegal ones, which are the complement of `decodes_iff`, since
no opcode has both formats; the issue of an illegal word is `raise`. -/
theorem illegalWordWritesOnlyResult : Obligations.IllegalWordWritesOnlyResult := by
  refine ⟨fun w => ?which, fun s w h => ?effect⟩
  case which =>
    have hsplit : opField w ∈ ([0x01, 0x02, 0x03, 0x10, 0x20, 0x21, 0x22] : List Byte) ↔
        opField w ∈ ([0x03, 0x10, 0x20, 0x21] : List Byte) ∨
          opField w ∈ ([0x01, 0x02, 0x22] : List Byte) := by
      simp only [List.mem_cons, List.not_mem_nil, or_false]
      tauto
    have hdisjoint : ∀ b ∈ ([0x03, 0x10, 0x20, 0x21] : List Byte), b ∉ ([0x01, 0x02, 0x22] : List Byte) := by
      decide
    have hexclusive := hdisjoint (opField w)
    rw [no_row_selects_iff, illegal_iff, decodes_iff, hsplit]
    tauto
  case effect =>
    obtain ⟨why, hd⟩ := (no_row_selects_iff w).mp h
    exact issue_illegal hd s

end Sys2Proof.Machine
end

section
/-! PROOFS. The key derivation family: the derived key by what it reads of the password, and the running stream
by what it reads of the state (40_key_derivation.md R90, R91; 42_xor_stream.md R121). -/

namespace Sys2Proof.Machine

/-- DERIVE has no check and no failure: it completes in every state (R91). -/
theorem execDerive_next (len : Nat) (s : State) : exec (.derive len) s = .next (done (deriveKey len s)) := by
  rw [exec, execDerive]

/-- Passwords that agree below `len` give the same key (R90). -/
theorem derive_congr {p q : Vector Byte 32} {len : Nat}
    (h : ∀ (i : Nat) (_ : i < 32), i < len → p[i] = q[i]) : derive p len = derive q len := by
  refine Vector.ext fun i hi => ?_
  rw [derive_get _ _ _ hi, derive_get _ _ _ hi]
  exact if_ctx_congr Iff.rfl (h i hi) fun _ => rfl

/-- From 32 on, the length cuts nothing off: the key is the whole of `PW` (R90). -/
theorem derive_eq_self {len : Nat} (h : 32 ≤ len) (p : Vector Byte 32) : derive p len = p := by
  refine Vector.ext fun i hi => ?_
  rw [derive_get _ _ _ hi, if_pos (by omega)]

/-- Settles O9: the key bytes by `derive_get`, the frame because `deriveKey` writes `KEY` and `done` writes
`RESULT`; the words by the decoder's two fields. -/
theorem deriveWritesTheNormalisedKey : Obligations.DeriveWritesTheNormalisedKey := by
  refine ⟨fun s len => ⟨_, execDerive_next len s, ?frame, fun i hi => ?bytes⟩, fun w hop => ?words⟩
  case frame => rfl
  case bytes => rw [done_KEY, deriveKey_KEY, derive_get _ _ _ hi]
  case words => exact (decode_eq_command_iff w _).mpr ⟨hop, rfl⟩

/-- Settles O10: DERIVE reads `PW` through `derive` only, which sees the bytes below `len`, all 32 of them from
32 on. -/
theorem deriveSeesOnlyThePasswordPrefix : Obligations.DeriveSeesOnlyThePasswordPrefix := by
  refine ⟨fun s p len h => ⟨_, execDerive_next len s, ?passwordReplaced⟩, fun s len h => ?saturates⟩
  case passwordReplaced =>
    have hkey : derive p len = derive s.PW len := derive_congr h
    rw [execDerive_next, deriveKey, deriveKey, hkey]
    rfl
  case saturates =>
    rw [execDerive_next, execDerive_next, deriveKey, deriveKey, derive_eq_self h, derive_eq_self le_rfl]

/-- Settles O22: XOR_STREAM's two checks read `INITED`, `DPTR` and the parameter, and its bytes come from the
datapath's registers, none of which is replaced; so the second state takes the same one of its three cases. -/
theorem runningStreamIgnoresNewKeys : Obligations.RunningStreamIgnoresNewKeys := by
  intro s t n k m p c v h
  obtain ⟨hI, rfl⟩ | ⟨hI, hr, rfl⟩ | ⟨hI, hr, rfl⟩ := execXorStream_cases h
  · exact execXorStream_uninitialized n hI
  · exact execXorStream_out_of_range hI hr
  · exact execXorStream_in_range hI hr

end Sys2Proof.Machine
end

section
/-! PROOFS. The engine family: rotations, quarter-round, double-round and block, then INIT, NEXT_BLOCK and the
blocks after an INIT (41_chacha20_engine.md R100 to R109). -/

namespace Sys2Proof.Machine

/-! ### Rotations -/

theorem rotl32_eq_rotateLeft (x : Word) {n : Nat} (h : n < 32) : rotl32 x n = x.rotateLeft n := by
  rw [BitVec.rotateLeft_eq_rotateLeftAux_of_lt h]
  rfl

/-- The rotated word's bit `(i + n) mod 32` is bit `i`: it comes from below the wrap or from above it (R6). -/
theorem rotl32_getLsbD (x : Word) {n i : Nat} (hn : n < 32) (hi : i < 32) :
    (rotl32 x n).getLsbD ((i + n) % 32) = x.getLsbD i := by
  rw [rotl32_eq_rotateLeft x hn, BitVec.getLsbD_rotateLeft, Nat.mod_eq_of_lt hn]
  by_cases hw : i + n < 32
  · rw [Nat.mod_eq_of_lt hw, Nat.add_sub_cancel]
    simp [hw]
  · have hwrap : (i + n) % 32 = i + n - 32 := by omega
    have hback : 32 - n + (i + n - 32) = i := by omega
    have hlt : i + n - 32 < n := by omega
    simp [hwrap, hback, hlt]

theorem rotl32_injective {n : Nat} (hn : n < 32) : Function.Injective (rotl32 · n) := by
  intro x y h
  refine BitVec.eq_of_getLsbD_eq fun i hi => ?_
  rw [← rotl32_getLsbD x hn hi, ← rotl32_getLsbD y hn hi]
  exact congrArg (BitVec.getLsbD · _) h

/-- Settles O11: the four amounts are below the word's width. -/
theorem rotationsLoseNoBit : Obligations.RotationsLoseNoBit := by
  intro x n hn
  have hlt : n < 32 := by fin_cases hn <;> decide
  exact ⟨rotl32_eq_rotateLeft x hlt, fun i hi => rotl32_getLsbD x hlt hi⟩

/-! ### The quarter-round -/

/-- One addition, exclusive-or and rotation of R102's eight lines, with the pairs `(a, b)` and `(c, d)` changing
places for the next one. -/
def addXorRotate (n : Nat) : Quad → Quad
  | (a, b, c, d) => (c, rotl32 (d ^^^ (a + b)) n, a + b, b)

/-- R102's eight lines are four turns of one step; the exchange of the pairs cancels after two. -/
theorem quarterRound_eq_addXorRotate (q : Quad) :
    quarterRound q = addXorRotate 7 (addXorRotate 8 (addXorRotate 12 (addXorRotate 16 q))) := by
  unfold quarterRound
  rfl

/-- A turn can be taken back: `b` and `c` are still there, so `a` comes from the sum and `d` from the rotated
word. -/
theorem addXorRotate_injective {n : Nat} (hn : n < 32) : Function.Injective (addXorRotate n) := by
  rintro ⟨a, b, c, d⟩ ⟨a', b', c', d'⟩ h
  simp only [addXorRotate, Prod.mk.injEq] at h
  obtain ⟨rfl, hrot, hsum, rfl⟩ := h
  obtain rfl : a = a' := (BitVec.add_left_inj b).mp hsum
  obtain rfl : d = d' := (BitVec.xor_left_inj _).mp (rotl32_injective hn hrot)
  rfl

theorem quarterRound_bijective : Function.Bijective quarterRound := by
  refine Finite.injective_iff_bijective.mp ?_
  rw [funext quarterRound_eq_addXorRotate]
  exact (addXorRotate_injective (by decide)).comp ((addXorRotate_injective (by decide)).comp
    ((addXorRotate_injective (by decide)).comp (addXorRotate_injective (by decide))))

section
variable {v w : Vector Word 16} {i j k l m : Fin 16}

/-- A quarter-round on four places leaves the other twelve words (R102). -/
theorem qrAt_get_of_not_mem (h : m ∉ [i, j, k, l]) : (qrAt w i j k l)[m] = w[m] := by
  simp only [List.mem_cons, List.not_mem_nil, or_false, not_or] at h
  obtain ⟨hi, hj, hk, hl⟩ := h
  rw [qrAt_get, if_neg hl, if_neg hk, if_neg hj, if_neg hi]

/-- A quarter-round on four distinct places writes its results back to them (R102). -/
theorem qrAt_get_places (h : [i, j, k, l].Nodup) :
    ((qrAt w i j k l)[i], (qrAt w i j k l)[j], (qrAt w i j k l)[k], (qrAt w i j k l)[l])
      = quarterRound (w[i], w[j], w[k], w[l]) := by
  simp only [List.nodup_cons, List.mem_cons, List.not_mem_nil, or_false, not_or] at h
  obtain ⟨⟨hij, hik, hil⟩, ⟨hjk, hjl⟩, hkl, -⟩ := h
  simp only [qrAt_get, hij, hik, hil, hjk, hjl, hkl, if_true, if_false]

/-- A word after a quarter-round depends on the word before it and on the four operands only (R102). -/
theorem qrAt_get_congr (h : ∀ p ∈ [i, j, k, l], v[p] = w[p]) (hm : v[m] = w[m]) :
    (qrAt v i j k l)[m] = (qrAt w i j k l)[m] := by
  rw [qrAt_get, qrAt_get, h i (by simp), h j (by simp), h k (by simp), h l (by simp), hm]

end

/-- Settles O12: the eight steps by the rotations' reading, the bijection by its four turns, the places by
`qrAt_get`. -/
theorem quarterRoundFollowsItsSteps : Obligations.QuarterRoundFollowsItsSteps := by
  refine ⟨fun a b c d => ?steps, quarterRound_bijective, fun w i j k l h =>
    ⟨qrAt_get_places h, fun m hm => qrAt_get_of_not_mem hm⟩⟩
  simp only [quarterRound, rotl32_eq_rotateLeft _ (show 16 < 32 by decide),
    rotl32_eq_rotateLeft _ (show 12 < 32 by decide), rotl32_eq_rotateLeft _ (show 8 < 32 by decide),
    rotl32_eq_rotateLeft _ (show 7 < 32 by decide)]

/-! ### The double-round -/

/-- Two quarter-rounds on disjoint places, seen at a place the first does not write: there the order does not
matter, since the second finds its operands untouched (R102). -/
theorem qrAt_qrAt_get_of_not_mem {w : Vector Word 16} {i j k l i' j' k' l' m : Fin 16}
    (h : [i, j, k, l].Disjoint [i', j', k', l']) (hm : m ∉ [i, j, k, l]) :
    (qrAt (qrAt w i j k l) i' j' k' l')[m] = (qrAt (qrAt w i' j' k' l') i j k l)[m] := by
  have hsecond : (qrAt (qrAt w i j k l) i' j' k' l')[m] = (qrAt w i' j' k' l')[m] :=
    qrAt_get_congr (fun p hp => qrAt_get_of_not_mem (h.symm hp)) (qrAt_get_of_not_mem hm)
  rw [hsecond, qrAt_get_of_not_mem hm]

/-- Quarter-rounds on disjoint places commute: no place is written by both (R103). -/
theorem qrAt_comm (w : Vector Word 16) {i j k l i' j' k' l' : Fin 16}
    (h : [i, j, k, l].Disjoint [i', j', k', l']) :
    qrAt (qrAt w i j k l) i' j' k' l' = qrAt (qrAt w i' j' k' l') i j k l := by
  refine Vector.ext fun p hp => ?_
  by_cases hm : (⟨p, hp⟩ : Fin 16) ∈ [i, j, k, l]
  · exact (qrAt_qrAt_get_of_not_mem h.symm (h hm)).symm
  · exact qrAt_qrAt_get_of_not_mem h hm

/-- Settles O13: the order is the definition's, the exchange is `qrAt_comm` on the two halves of the places. -/
theorem doubleRoundOrder : Obligations.DoubleRoundOrder := by
  refine ⟨fun w => ?order, fun w i j k l i' j' k' l' h => ?exchange⟩
  case order => rw [doubleRound, diagonalRound, columnRound]
  case exchange => exact qrAt_comm w (List.disjoint_of_nodup_append (l₁ := [i, j, k, l]) h)

/-! ### The block function -/

/-- The feed-forward: word `i` after ten double-rounds plus the original word (R104). -/
theorem blockWords_get (s : Vector Word 16) (i : Nat) (hi : i < 16) :
    (blockWords s)[i] = (doubleRound^[10] s)[i] + s[i] := by
  simp only [blockWords, Vector.getElem_ofFn, Fin.getElem_fin, doubleRounds_iterate]

/-- The serialisation: four bytes per word, least significant first (R104). -/
theorem block_get (s : Vector Word 16) (i : Nat) (hi : i < 16) (k : Nat) (hk : k < 4) :
    (block s)[4 * i + k] = (blockWords s)[i].extractLsb' (8 * k) 8 := by
  have hword : (4 * i + k) / 4 = i := by omega
  have hbyte : (4 * i + k) % 4 = k := by omega
  simp only [block, Vector.getElem_ofFn, hword, hbyte]
  rw [bytesLE_get _ _ hk, wordAt_eq _ _ hi]

/-- Settles O14: the serialisation of the feed-forward's words. -/
theorem blockSerialisesTheFeedForward : Obligations.BlockSerialisesTheFeedForward := by
  intro s i hi k hk
  rw [block_get s i hi k hk, blockWords_get]

/-! ### INIT -/

/-- INIT has no check and no failure: it completes in every state (R106). -/
theorem execInit_next (s : State) : exec .init s = .next (done (initEngine s.CTR0 s)) := by
  rw [exec, execInit]

/-- The eight key words stand after the four constants (R106). -/
theorem initWords_key (key : Vector Byte 32) (nonce : Vector Byte 12) (c : Word) (i : Nat) (hi : i < 8) :
    (initWords key nonce c)[4 + i] = keyWord key i := by
  rw [initWords_get, initWord, if_neg (by omega), if_neg (by omega), if_neg (by omega), if_neg (by omega),
    if_pos (by omega), Nat.add_sub_cancel_left]

/-- The three nonce words stand after the counter (R106). -/
theorem initWords_nonce (key : Vector Byte 32) (nonce : Vector Byte 12) (c : Word) (i : Nat) (hi : i < 3) :
    (initWords key nonce c)[13 + i] = nonceWord nonce i := by
  rw [initWords_get, initWord, if_neg (by omega), if_neg (by omega), if_neg (by omega), if_neg (by omega),
    if_neg (by omega), if_neg (by omega), Nat.add_sub_cancel_left]

theorem initWords_constants (key : Vector Byte 32) (nonce : Vector Byte 12) (c : Word) :
    (initWords key nonce c)[0] = C0 ∧ (initWords key nonce c)[1] = C1 ∧ (initWords key nonce c)[2] = C2 ∧
      (initWords key nonce c)[3] = C3 := by
  simp only [initWords_get]
  exact ⟨rfl, rfl, rfl, rfl⟩

/-- Of the words with a format Z opcode, the one with `imm = 0` is the command and the others are illegal
(R71, R74). -/
theorem decode_formatZ {i : Instr} (hi : i ∈ [.init, .nextBlock, .validate]) {w : Word}
    (hop : opField w = Laws.EncodedFields.opcode i) :
    (immField w = 0 → decode w = .command i) ∧ (immField w ≠ 0 → ∃ why, decode w = .illegal why) := by
  constructor
  · intro himm
    refine (decode_eq_command_iff w i).mpr ⟨hop, ?_⟩
    rw [(immField_toNat_eq_zero_iff w).mpr himm]
    fin_cases hi <;> rfl
  · intro himm
    rw [illegal_iff, decodes_iff, hop]
    rintro (hformatL | ⟨-, hzero⟩)
    · revert hformatL
      fin_cases hi <;> decide
    · exact himm hzero

/-- Settles O15: the frame because `initEngine` writes the engine's fields and `done` writes `RESULT`; the words
by their places in `initWords`. -/
theorem initLoadsTheEngine : Obligations.InitLoadsTheEngine := by
  refine ⟨fun s => ⟨_, execInit_next s, rfl, ?words⟩, fun w hop => decode_formatZ (by simp) hop⟩
  simp only [done_S, initEngine_S]
  obtain ⟨h0, h1, h2, h3⟩ := initWords_constants s.KEY s.NONCE s.CTR0
  refine ⟨h0, h1, h2, h3, fun i hi => ?key, initWords_counter .., fun i hi => ?nonce⟩
  case key => rw [initWords_key _ _ _ i hi, keyWord_toNat _ i hi]
  case nonce => rw [initWords_nonce _ _ _ i hi, nonceWord_toNat _ i hi]

/-! ### NEXT_BLOCK -/

theorem execNextBlock_inited {s : State} (hI : s.INITED = true) :
    exec .nextBlock s = .next (done (setDatapath (generate (datapathOf s)) s)) := by
  rw [exec, execNextBlock, if_pos hI]

theorem execNextBlock_uninitialized {s : State} (hI : s.INITED = false) :
    exec .nextBlock s = .next (raise .sequenceError s) := by
  rw [exec, execNextBlock, if_neg (by simp [hI])]

/-- A word steps to 0 exactly from its greatest value (R105). -/
theorem word_add_one_eq_zero_iff (x : Word) : x + 1 = 0 ↔ x = 0xFFFFFFFF := by
  bv_omega

/-- ADVANCE by the counter word before it: on the wrap `S[13]` takes the carry, and only then (R105). -/
theorem advance_eq (s : Vector Word 16) : advance s =
    if s[12] = 0xFFFFFFFF then (s.set 12 0).set 13 (s[13] + 1) else s.set 12 (s[12] + 1) := by
  simp only [advance, Vector.getElem_set_self, word_add_one_eq_zero_iff]
  by_cases hw : s[12] = 0xFFFFFFFF
  · simp [hw]
  · rw [if_neg hw, if_neg hw]

/-- Settles O16: the frame because the datapath's `POS` and `FB` go back as they came; the words by
`advance_eq`. -/
theorem nextBlockGeneratesOneBlock : Obligations.NextBlockGeneratesOneBlock := by
  refine ⟨fun s hI => ⟨_, execNextBlock_inited hI, rfl, ?words⟩, fun s hI => execNextBlock_uninitialized hI,
    fun w hop => decode_formatZ (by simp) hop⟩
  rw [done_S, setDatapath_S, generate_S, datapathOf_S, advance_eq]

/-! ### The blocks after an INIT -/

/-- The `j`-th block generation reads the words of R109's closed form. -/
theorem iterate_generate_KS (x : Datapath) (j : Nat) :
    (generate^[j + 1] x).KS = block (counterState x.S j) := by
  rw [Function.iterate_succ_apply', generate_KS, iterate_generate_S]

/-- Settles O17: the words are `counterState` of the loaded ones, whose counter word INIT takes from `CTR0`. -/
theorem keystreamBlockSequence : Obligations.KeystreamBlockSequence := by
  intro s t j h
  have hcounter : t.S[12] = s.CTR0 := by
    rw [execInit_cases h]
    exact initWords_counter ..
  refine ⟨counterState t.S j, iterate_generate_KS _ j, fun i hi => ?below, ?counter, ?nonce, ?w14, ?w15⟩
  case below => exact counterState_other _ _ i (by omega) (by omega) (by omega)
  case counter => rw [counterState_12, BitVec.toNat_ofNat, hcounter]
  case nonce => rw [counterState_13, BitVec.toNat_ofNat, hcounter]
  case w14 => exact counterState_other _ _ 14 (by decide) (by decide) (by decide)
  case w15 => exact counterState_other _ _ 15 (by decide) (by decide) (by decide)

end Sys2Proof.Machine
end

section
/-! PROOFS. The stream family: XOR_STREAM's three cases, its continuation, and its inverse
(42_xor_stream.md R120 to R123). -/

namespace Sys2Proof.Machine

/-- Settles O19: the two refusals by the checks that raise them; in range the run is `xorBytes` on the datapath,
and `xorBytes_effect` says what that leaves. -/
theorem xorStreamEffect : Obligations.XorStreamEffect := by
  refine ⟨fun s n hI => execXorStream_uninitialized n hI, fun s n hI hr => execXorStream_out_of_range hI hr,
    fun s n hI hr hpos hwf => ⟨_, execXorStream_in_range hI hr, rfl, ?run⟩⟩
  have heff := xorBytes_effect s.DPTR.toNat n (s := datapathOf s) hpos hwf
  exact ⟨heff.bytes, heff.cursor, heff.words, heff.current⟩

/-! ### Continuation -/

/-- The host's move of `DPTR` inside `FB` does not wrap: `FB` is below 64 KiB (R5, R23). -/
theorem DPTR_add_toNat {s : State} {a : Nat} (h : s.DPTR.toNat + a ≤ fileSize s.config) :
    (s.DPTR + BitVec.ofNat 32 a).toNat = s.DPTR.toNat + a := by
  have hlt := fileSize_lt s.config
  rw [BitVec.toNat_add, BitVec.toNat_ofNat]
  omega

/-- Settles O20: the second run starts where the first ended, on its datapath, and two such runs of
`xorBytes` are one. -/
theorem xorStreamContinues : Obligations.XorStreamContinues := by
  intro s a b hI hr
  have hmoved : (s.DPTR + BitVec.ofNat 32 a).toNat = s.DPTR.toNat + a := DPTR_add_toNat (by omega)
  refine ⟨_, _, execXorStream_in_range hI (by omega), execXorStream_in_range hI ?secondInRange, ?whole⟩
  case secondInRange =>
    show (s.DPTR + BitVec.ofNat 32 a).toNat + b ≤ fileSize s.config
    omega
  case whole =>
    rw [execXorStream_in_range hI hr, xorBytes_add, ← hmoved]
    rfl

/-! ### Inverse -/

/-- At an exhausted cursor the stream is a function of the cipher words alone: the old block is used up
(R120). -/
theorem streamByte_exhausted {x : Datapath} (h : x.POS = 64) (j : Nat) :
    streamByte x j = byteAt (block (counterState x.S (j / 64))) (j % 64) := by
  have hp : x.POS.toNat = 64 := by rw [h]; rfl
  unfold streamByte
  rw [hp, if_neg (by omega), Nat.add_sub_cancel_left]

/-- The stream an INIT starts is fixed by `KEY`, `NONCE` and the counter (R106, R122). -/
theorem streamByte_initEngine_congr {s u : State} (hkey : u.KEY = s.KEY) (hnonce : u.NONCE = s.NONCE)
    (c : Word) (j : Nat) :
    streamByte (datapathOf (initEngine c u)) j = streamByte (datapathOf (initEngine c s)) j := by
  rw [streamByte_exhausted rfl, streamByte_exhausted rfl]
  simp only [datapathOf_S, initEngine_S, hkey, hnonce]

/-- A second run over the bytes of a first, with the same keystream, gives them back: each byte is XORed twice
with the same byte (R122). -/
theorem xorBytes_FB_restored {off n : Nat} {x y : Datapath} (hx : x.POS.toNat ≤ 64)
    (hy : y.POS.toNat ≤ 64) (hwf : x.FB.wf) (hFB : y.FB = (xorBytes off n x).FB)
    (hstream : ∀ j, streamByte y j = streamByte x j) : (xorBytes off n y).FB = x.FB := by
  have hfirst := xorBytes_effect off n hx hwf
  have hsecond := xorBytes_effect off n hy (hFB ▸ hfirst.canonical)
  refine Memory.ext_of_read hsecond.canonical hwf fun a => ?_
  rw [hsecond.bytes, hFB, hfirst.bytes, hstream]
  by_cases ha : off ≤ a ∧ a < off + n
  · rw [if_pos ha, if_pos ha, BitVec.xor_assoc, BitVec.xor_self, BitVec.xor_zero]
  · rw [if_neg ha, if_neg ha]

/-- Settles O21: both INITs start the same stream, and the second run takes the first one's bytes back. -/
theorem xorStreamIsItsOwnInverse : Obligations.XorStreamIsItsOwnInverse := by
  intro s s1 s2 u n hwf hr hinit hrun hkey hnonce hctr hdptr hconfig hFB
  obtain rfl := execInit_cases hinit
  rw [execXorStream_in_range (s := done (initEngine s.CTR0 s)) rfl hr] at hrun
  cases hrun
  refine ⟨_, _, execInit_next u, execXorStream_in_range rfl ?inRange, ?bytes⟩
  case inRange =>
    simp only [done_DPTR, initEngine_DPTR, done_config, initEngine_config]
    rwa [hdptr, hconfig]
  case bytes =>
    simp only [done_FB, setDatapath_FB, done_DPTR, initEngine_DPTR, hdptr, hctr]
    exact xorBytes_FB_restored (x := datapathOf (initEngine s.CTR0 s))
      (y := datapathOf (initEngine s.CTR0 u)) (Nat.le_refl 64) (Nat.le_refl 64) hwf hFB
      (streamByte_initEngine_congr hkey hnonce s.CTR0)

end Sys2Proof.Machine
end

section
/-! PROOFS. The vault codec family: the count predicate, what SEAL and OPEN leave, the round trip, the discard
(43_vault_codec.md R132 to R139). -/

namespace Sys2Proof.Machine

/-! ### The entry count -/

/-- The two's-complement reading of the four bytes, by their unsigned one (R133). -/
theorem countOf_eq (b0 b1 b2 b3 : Byte) : countOf b0 b1 b2 b3 =
    if (le32 b0 b1 b2 b3).toNat < 2 ^ 31 then ((le32 b0 b1 b2 b3).toNat : Int)
    else ((le32 b0 b1 b2 b3).toNat : Int) - 2 ^ 32 := by
  rw [countOf, BitVec.toInt_eq_toNat_cond]
  exact if_congr (by omega) rfl rfl

theorem validCount_iff (b0 b1 b2 b3 : Byte) :
    validCount b0 b1 b2 b3 = true ↔ 0 ≤ countOf b0 b1 b2 b3 ∧ countOf b0 b1 b2 b3 ≤ 100 := by
  rw [validCount, decide_eq_true_iff]

/-- Signed or unsigned, the bound is the same: a negative reading is at least `2^31` unsigned (R133). -/
theorem validCount_iff_toNat (b0 b1 b2 b3 : Byte) :
    validCount b0 b1 b2 b3 = true ↔ (le32 b0 b1 b2 b3).toNat ≤ 100 := by
  have hlt := (le32 b0 b1 b2 b3).isLt
  rw [validCount_iff, countOf_eq]
  split <;> omega

/-- A byte above the lowest adds at least 256 to the count (R133). -/
theorem validCount_iff_bytes (b0 b1 b2 b3 : Byte) :
    validCount b0 b1 b2 b3 = true ↔ b1 = 0 ∧ b2 = 0 ∧ b3 = 0 ∧ b0.toNat ≤ 100 := by
  have hzero (b : Byte) : b = 0 ↔ b.toNat = 0 := BitVec.toNat_inj.symm
  rw [validCount_iff_toNat, le32_toNat, hzero, hzero, hzero]
  omega

/-- Settles O29: the readings by `le32_toNat`, the patterns by the weight of each byte. -/
theorem validCountPatterns : Obligations.ValidCountPatterns := by
  intro b0 b1 b2 b3
  dsimp only
  rw [← le32_toNat]
  exact ⟨countOf_eq .., validCount_iff .., validCount_iff_toNat .., validCount_iff_bytes ..⟩

theorem validCountAt_iff (m : Memory) (a : Nat) : validCountAt m a = true ↔
    m.read a ≤ 100 ∧ m.read (a + 1) = 0 ∧ m.read (a + 2) = 0 ∧ m.read (a + 3) = 0 := by
  have hle : m.read a ≤ 100 ↔ (m.read a).toNat ≤ 100 := BitVec.le_def
  rw [validCountAt, validCount_iff_bytes, hle]
  tauto

/-- Settles O30: VALIDATE's one check is `validCountAt_iff`, and either answer writes `RESULT` only. -/
theorem validateReportsTheCount : Obligations.ValidateReportsTheCount := by
  intro s
  rw [exec, execValidate]
  simp only [← validCountAt_iff s.VM 0]
  split <;> rfl

/-- The count check reads four bytes and no others (R133). -/
theorem validCountAt_congr {m m' : Memory} {a a' : Nat} (h : ∀ k, k < 4 → m.read (a + k) = m'.read (a' + k)) :
    validCountAt m a = validCountAt m' a' := by
  rw [validCountAt, validCountAt, ← h 1 (by decide), ← h 2 (by decide), ← h 3 (by decide)]
  exact congrArg (validCount · _ _ _) (h 0 (by decide))

/-! ### SEAL -/

section
variable {s : State} (hwf : s.FB.wf) (e : Vector Byte 12) (len : Nat)
include hwf

theorem sealImage_read_nonce {i : Nat} (hi : i < 12) : (sealImage e len s).FB.read i = e[i] := by
  rw [sealImage_read hwf, if_pos hi, byteAt_eq e i hi]

theorem sealImage_read_record {i : Nat} (hi : i < vaultSize s.config) :
    (sealImage e len s).FB.read (12 + i) = s.VM.read i ^^^ imageByte (derive s.PW len) e i := by
  have hin : 12 + i < fileSize s.config := by rw [fileSize_eq]; omega
  rw [sealImage_read hwf, if_neg (by omega), if_pos hin, Nat.add_sub_cancel_left]

theorem sealImage_read_beyond {a : Nat} (ha : fileSize s.config ≤ a) :
    (sealImage e len s).FB.read a = s.FB.read a := by
  have hin : 12 ≤ a := by rw [fileSize_eq] at ha; omega
  rw [sealImage_read hwf, if_neg (by omega), if_neg (by omega)]

theorem sealImage_wf : (sealImage e len s).FB.wf := by
  rw [sealImage_FB]
  exact cryptImage_wf (layImage_wf hwf)

end

/-- Settles O23: the frame by `sealImage_frame`, the image by its three ranges; `takeEntropy` uses up the answer
and nothing else. -/
theorem sealWritesTheImage : Obligations.SealWritesTheImage := by
  intro s len e hwf hanswers he
  refine ⟨_, execSeal_answered len hanswers he, sealImage_frame e len (takeEntropy s), fun i hi => ?nonce,
    fun i hi => ?record, fun a ha => ?beyond⟩
  case nonce => exact sealImage_read_nonce (s := takeEntropy s) hwf e len hi
  case record => exact sealImage_read_record (s := takeEntropy s) hwf e len hi
  case beyond => exact sealImage_read_beyond (s := takeEntropy s) hwf e len ha

theorem execSeal_failed {s : State} (len : Nat) (h : entropyHangs s = false) (he : entropyReply s = none) :
    exec (.sealVault len) s = .next (raise .entropyError (takeEntropy s)) := by
  simp [exec, execSeal, h, he]

/-- Settles O24: the only updates on that path are `takeEntropy` and `raise`. -/
theorem sealWithoutEntropyChangesOnlyResult : Obligations.SealWithoutEntropyChangesOnlyResult :=
  fun _ len hanswers he => execSeal_failed len hanswers he

/-! ### OPEN -/

section
variable (len : Nat) (s : State)

@[simp] theorem openImage_NONCE : (openImage len s).NONCE = (decryptImage len s).NONCE := by
  rw [openImage_frame]

@[simp] theorem openImage_FB : (openImage len s).FB = (decryptImage len s).FB := by
  rw [openImage_frame]

@[simp] theorem openImage_RESULT : (openImage len s).RESULT =
    if validCountAt (decryptImage len s).FB 12 then 0x00 else 0x05 := by
  rw [openImage_frame]

theorem openImage_VM_of_valid (h : validCountAt (decryptImage len s).FB 12 = true) (hwf : s.VM.wf) (i : Nat) :
    (openImage len s).VM.read i =
      if i < vaultSize s.config then (decryptImage len s).FB.read (12 + i) else s.VM.read i := by
  rw [openImage_VM, if_pos h, Memory.read_writeRun hwf]
  simp

theorem openImage_VM_of_invalid (h : validCountAt (decryptImage len s).FB 12 = false) :
    (openImage len s).VM = s.VM := by
  rw [openImage_VM, if_neg (by simp [h])]

end

theorem execOpen_short {s : State} (len : Nat) (h : s.FLEN.toNat < fileSize s.config) :
    exec (.openVault len) s = .next (raise .ioReadError s) := by
  rw [exec, execOpen, if_pos h]

/-- Settles O26: the frame by `openImage_frame`, the bytes by `decryptImage_read`, `VM` by the count check. -/
theorem openDecryptsTheImage : Obligations.OpenDecryptsTheImage := by
  refine ⟨fun s len h => execOpen_short len h, fun s len h hFB hVM => ⟨_, execOpen_long len h, ?frame,
    fun i hi => ?nonce, fun a => ?bytes, fun hv i => ?valid, fun hv => ?invalid⟩⟩
  case frame => simpa only [openImage_NONCE, openImage_FB] using openImage_frame len s
  case nonce => simpa only [openImage_NONCE] using decryptImage_NONCE len s i hi
  case bytes => simpa only [openImage_NONCE, openImage_FB] using decryptImage_read hFB len a
  case valid =>
    rw [openImage_FB] at hv ⊢
    exact openImage_VM_of_valid len s hv hVM i
  case invalid =>
    rw [openImage_FB] at hv
    exact openImage_VM_of_invalid len s hv

/-! ### The round trip -/

/-- SEAL's `FLEN` is the whole image: `FILE_SIZE` fits the register (R5, R135). -/
theorem sealImage_FLEN (e : Vector Byte 12) (len : Nat) (s : State) :
    (sealImage e len s).FLEN.toNat = fileSize s.config := by
  have hlt := fileSize_lt s.config
  rw [sealImage_frame, BitVec.toNat_ofNat, Nat.mod_eq_of_lt (by omega)]

/-- OPEN takes the nonce that SEAL wrote from the image (R135, R136). -/
theorem decryptImage_NONCE_of_sealed {s u : State} {len : Nat} {e : Vector Byte 12} (hwf : s.FB.wf)
    (hFB : u.FB = (sealImage e len s).FB) : (decryptImage len u).NONCE = e := by
  refine Vector.ext fun i hi => ?_
  rw [decryptImage_NONCE len u i hi, hFB, sealImage_read_nonce hwf e len hi]

/-- Decryption of a sealed image under the same password and length: every byte of the record is XORed twice with
the same keystream byte (R139). -/
theorem decryptImage_read_of_sealed {s u : State} {len : Nat} {e : Vector Byte 12} (hwf : s.FB.wf)
    (hFB : u.FB = (sealImage e len s).FB) (hconfig : u.config = s.config) (hPW : u.PW = s.PW) {i : Nat}
    (hi : i < vaultSize s.config) : (decryptImage len u).FB.read (12 + i) = s.VM.read i := by
  have huwf : u.FB.wf := hFB ▸ sealImage_wf hwf e len
  have hin : 12 + i < fileSize s.config := by rw [fileSize_eq]; omega
  rw [decryptImage_read huwf, hconfig, if_pos ⟨by omega, hin⟩, decryptImage_NONCE_of_sealed hwf hFB, hFB, hPW,
    sealImage_read_record hwf e len hi, Nat.add_sub_cancel_left, BitVec.xor_assoc, BitVec.xor_self,
    BitVec.xor_zero]

/-- Settles O27: the image decrypts to the record, so OPEN's count check is the one on the record. -/
theorem openInvertsSeal : Obligations.OpenInvertsSeal := by
  intro s t u len e hwf hanswers he hseal hconfig hPW hFB hFLEN huVM
  rw [execSeal_answered len hanswers he] at hseal
  cases hseal
  have hlong : fileSize u.config ≤ u.FLEN.toNat := by
    rw [hFLEN, hconfig, sealImage_FLEN, takeEntropy_config]
  have hrecord (i : Nat) (hi : i < vaultSize s.config) : (decryptImage len u).FB.read (12 + i) = s.VM.read i :=
    decryptImage_read_of_sealed (s := takeEntropy s) hwf hFB hconfig hPW hi
  have hcount : validCountAt (decryptImage len u).FB 12 = validCountAt s.VM 0 :=
    validCountAt_congr fun k hk => by rw [hrecord k (by unfold vaultSize; omega), Nat.zero_add]
  refine ⟨_, execOpen_long len hlong, fun i hi => ?bytes, fun hv => ⟨?ok, fun i hi => ?loaded⟩,
    fun hv => ⟨?corrupt, ?kept⟩⟩
  case bytes => rw [openImage_FB, hrecord i hi]
  case ok => rw [openImage_RESULT, hcount, if_pos hv]
  case loaded =>
    rw [openImage_VM_of_valid len u (hcount.trans hv) huVM, hconfig, if_pos hi, hrecord i hi]
  case corrupt => rw [openImage_RESULT, hcount, if_neg (by simp [hv])]
  case kept => exact openImage_VM_of_invalid len u (hcount.trans hv)

/-! ### A changed byte of the image -/

/-- The nonce is the image's first 12 bytes and no others (R132, R136). -/
theorem decryptImage_NONCE_congr {s u : State} (len : Nat) (h : ∀ i < 12, u.FB.read i = s.FB.read i) :
    (decryptImage len u).NONCE = (decryptImage len s).NONCE :=
  Vector.ext fun i hi => by rw [decryptImage_NONCE len u i hi, decryptImage_NONCE len s i hi, h i hi]

/-- A stream cipher moves no bit: bits changed in a ciphertext byte change in that plaintext byte (R134, R136). -/
theorem decryptImage_read_tampered {s : State} (hwf : s.FB.wf) (len : Nat) {a : Nat} (d : Byte) (ha : 12 ≤ a)
    (b : Nat) :
    (decryptImage len { s with FB := s.FB.write a (s.FB.read a ^^^ d) }).FB.read b =
      if b = a then (decryptImage len s).FB.read b ^^^ d else (decryptImage len s).FB.read b := by
  have hnonce : (decryptImage len { s with FB := s.FB.write a (s.FB.read a ^^^ d) }).NONCE =
      (decryptImage len s).NONCE :=
    decryptImage_NONCE_congr len fun i hi => Memory.read_write_other _ _ (by omega)
  rw [decryptImage_read (Memory.wf_write hwf a _), decryptImage_read hwf, hnonce]
  by_cases hb : b = a
  · subst b
    rw [Memory.read_write_same hwf, if_pos rfl]
    split
    · rw [BitVec.xor_assoc, BitVec.xor_comm d, ← BitVec.xor_assoc]
    · rfl
  · rw [Memory.read_write_other _ _ hb, if_neg hb]

/-- Settles O28: the decrypted image differs in that byte alone, which the count check does not read. -/
theorem tamperedByteIsUndetected : Obligations.TamperedByteIsUndetected := by
  intro s t len a d hwf hlong ha _ hopen
  rw [execOpen_long len hlong] at hopen
  cases hopen
  have hread := decryptImage_read_tampered hwf len d (a := a) (by omega)
  refine ⟨_, execOpen_long len hlong, ?result, fun b => ?bytes⟩
  case result =>
    have hcount := validCountAt_congr (a := 12) (a' := 12) fun k hk =>
      (hread (12 + k)).trans (if_neg (by omega))
    rw [openImage_RESULT, openImage_RESULT, hcount]
  case bytes => rw [openImage_FB, openImage_FB, hread b]

/-! ### The discard -/

theorem discard_sealImage (e : Vector Byte 12) (len : Nat) (s : State) :
    discard (sealImage e len s) = sealImage e len s := by
  rw [sealImage_frame]
  rfl

theorem discard_openImage (len : Nat) (s : State) : discard (openImage len s) = openImage len s := by
  rw [openImage_frame]
  rfl

/-- SEAL past its entropy check and OPEN past its length check end in a discarded context (R138). -/
theorem codec_discards {s t : State} {i : Instr} {len : Nat}
    (hi : (i = .sealVault len ∧ ∃ e, entropyReply s = some e) ∨
      (i = .openVault len ∧ fileSize s.config ≤ s.FLEN.toNat))
    (ht : exec i s = .next t) : discard t = t := by
  obtain ⟨rfl, e, he⟩ | ⟨rfl, hlong⟩ := hi
  · obtain ⟨-, ⟨hnone, -⟩ | ⟨e', -, rfl⟩⟩ := execSeal_cases ht
    · rw [hnone] at he
      cases he
    · exact discard_sealImage ..
  · rw [execOpen_long len hlong] at ht
    cases ht
    exact discard_openImage ..

/-- Settles O31: the fields are `discard`'s, and an uninitialised engine refuses NEXT_BLOCK and XOR_STREAM. -/
theorem codecDiscardsItsContext : Obligations.CodecDiscardsItsContext := by
  intro s t i len hi ht
  have hd := codec_discards hi ht
  have hI : t.INITED = false := by rw [← hd, discard_INITED]
  refine ⟨?key, ?words, ?keystream, (phase_eq_uninitialized_iff t).mpr hI, ?cursor,
    execNextBlock_uninitialized hI, fun n => execXorStream_uninitialized n hI⟩
  case key => rw [← hd, discard_KEY]
  case words => rw [← hd, discard_S]
  case keystream => rw [← hd, discard_KS]
  case cursor => rw [← hd, discard_POS]

/-! ### The context before -/

/-- The image's encryption loads the engine anew, and its first byte replaces the old keystream block (R106,
R120). -/
theorem cryptImage_context_irrel (s : State) (w : Vector Word 16) (b : Vector Byte 64) (p : BitVec 7)
    (f : Bool) : cryptImage { s with S := w, KS := b, POS := p, INITED := f } = cryptImage s := by
  have hrun := xorBytes_KS_irrel cipherOffset (vaultSize_pos s.config)
    (x := datapathOf (initEngine 0 s)) rfl b
  exact congrArg (setDatapath · (initEngine 0 s)) hrun

section
variable (s : State) (len : Nat) (w : Vector Word 16) (b : Vector Byte 64) (p : BitVec 7) (f : Bool)
  (k : Vector Byte 32) (m : Vector Byte 12)

/-- SEAL derives the key and draws the nonce before it uses them (R135). -/
theorem sealImage_context_irrel (e : Vector Byte 12) :
    sealImage e len { s with S := w, KS := b, POS := p, INITED := f, KEY := k, NONCE := m } =
      sealImage e len s :=
  congrArg (fun u : State => done (discard { u with FLEN := BitVec.ofNat 32 (fileSize s.config) }))
    (cryptImage_context_irrel (layImage (deriveKey len { s with NONCE := e })) w b p f)

/-- OPEN derives the key and takes the nonce from the image before it uses them (R136). -/
theorem decryptImage_context_irrel :
    decryptImage len { s with S := w, KS := b, POS := p, INITED := f, KEY := k, NONCE := m } =
      decryptImage len s :=
  cryptImage_context_irrel { deriveKey len s with NONCE := Vector.ofFn fun i => s.FB.read i.val } w b p f

theorem openImage_context_irrel :
    openImage len { s with S := w, KS := b, POS := p, INITED := f, KEY := k, NONCE := m } =
      openImage len s := by
  rw [openImage, openImage, decryptImage_context_irrel]

end

/-- Settles O32: both checks read neither, and past them both commands set what they read of them. -/
theorem codecIgnoresTheOldContext : Obligations.CodecIgnoresTheOldContext := by
  refine fun s len w b p f k m => ⟨fun ⟨e, he⟩ => ?sealVault, fun hlong => ?openVault⟩
  case sealVault =>
    cases hh : entropyHangs s
    · rw [execSeal_answered (s := s) len hh he, ← sealImage_context_irrel (takeEntropy s) len w b p f k m e]
      exact execSeal_answered len hh he
    · rw [execSeal_hangs (s := s) len hh]
      exact execSeal_hangs len hh
  case openVault =>
    rw [execOpen_long (s := s) len hlong, ← openImage_context_irrel s len w b p f k m]
    exact execOpen_long len hlong

end Sys2Proof.Machine
end

section
/-! PROOFS. The exceptions family: the code each command ends with, what a refused command leaves, and the idle
step (60_exceptions.md R160 to R163, R170, R171). -/

namespace Sys2Proof.Machine

/-! ### The codes -/

theorem sealImage_RESULT (e : Vector Byte 12) (len : Nat) (s : State) :
    (sealImage e len s).RESULT = 0x00 := by
  rw [sealImage_frame]

/-- Past its length check OPEN ends with OK or, on an invalid count, with 5 (R136). -/
theorem openImage_RESULT_mem (len : Nat) (s : State) :
    (openImage len s).RESULT ∈ ([0x00, 0x05] : List Word) := by
  rw [openImage_RESULT]
  split <;> decide

theorem execNextBlock_RESULT {s t : State} (ht : exec .nextBlock s = .next t) :
    t.RESULT = if s.INITED then 0x00 else 0x81 := by
  obtain ⟨hI, rfl⟩ | ⟨hI, rfl⟩ := execNextBlock_cases ht
  · rw [if_pos hI]
    rfl
  · rw [if_neg (by simp [hI])]
    rfl

/-- The state check comes before the range check (R162). -/
theorem execXorStream_RESULT {n : Nat} {s t : State} (ht : exec (.xorStream n) s = .next t) :
    t.RESULT = if s.INITED = false then 0x81
      else if fileSize s.config < s.DPTR.toNat + n then 0x82 else 0x00 := by
  obtain ⟨hI, rfl⟩ | ⟨hI, hr, rfl⟩ | ⟨hI, hr, rfl⟩ := execXorStream_cases ht
  · rw [if_pos hI]
    rfl
  · rw [if_neg (by simp [hI]), if_pos hr]
    rfl
  · rw [if_neg (by simp [hI]), if_neg hr.not_gt]
    rfl

theorem execSeal_RESULT {len : Nat} {s t : State} (ht : exec (.sealVault len) s = .next t) :
    t.RESULT = if entropyReply s = none then 0x01 else 0x00 := by
  obtain ⟨-, ⟨he, rfl⟩ | ⟨e, he, rfl⟩⟩ := execSeal_cases ht
  · rw [if_pos he]
    rfl
  · rw [sealImage_RESULT, if_neg (by simp [he])]

/-- Past the length check the code is 0 or 5, so 3 says that the check failed (R136). -/
theorem execOpen_RESULT {len : Nat} {s t : State} (ht : exec (.openVault len) s = .next t) :
    (t.RESULT = 0x03 ↔ s.FLEN.toNat < fileSize s.config) ∧
      t.RESULT ∈ ([0x00, 0x03, 0x05] : List Word) := by
  obtain ⟨hshort, rfl⟩ | ⟨hlong, rfl⟩ := execOpen_cases ht
  case inl =>
    have hcode : (raise .ioReadError s).RESULT = 0x03 := rfl
    refine ⟨iff_of_true hcode hshort, ?_⟩
    rw [hcode]
    decide
  case inr =>
    have hcode := openImage_RESULT_mem len s
    have hne : ∀ c ∈ ([0x00, 0x05] : List Word), c ≠ 0x03 ∧ c ∈ ([0x00, 0x03, 0x05] : List Word) := by
      simp
    obtain ⟨hne3, hmem⟩ := hne _ hcode
    exact ⟨iff_of_false hne3 hlong.not_gt, hmem⟩

theorem execValidate_RESULT {s t : State} (ht : exec .validate s = .next t) :
    t.RESULT ∈ ([0x00, 0x05] : List Word) := by
  obtain ⟨-, rfl⟩ | ⟨-, rfl⟩ := execValidate_cases ht
  · exact List.mem_cons_self
  · exact List.mem_cons_of_mem _ List.mem_cons_self

/-- Settles O39, command by command; INIT and DERIVE have no check. -/
theorem resultCodesByCommand : Obligations.ResultCodesByCommand := by
  intro s t
  refine ⟨fun ht => ?init, fun len ht => ?derive, execNextBlock_RESULT, fun n => execXorStream_RESULT,
    fun len => execSeal_RESULT, fun len => execOpen_RESULT, execValidate_RESULT⟩
  case init => exact execInit_cases ht ▸ rfl
  case derive => exact execDerive_cases ht ▸ rfl

/-! ### What a refused command leaves -/

/-- The states that differ from `s` in `RESULT` and the entropy source's answers at most (R163). -/
def OnlyResultChanged (s t : State) : Prop :=
  t = { s with RESULT := t.RESULT, entropy := t.entropy, entropyDraws := t.entropyDraws }

theorem raise_only_result (e : ResultCode) (s : State) : OnlyResultChanged s (raise e s) := rfl

theorem done_only_result (s : State) : OnlyResultChanged s (done s) := rfl

theorem raise_takeEntropy_only_result (e : ResultCode) (s : State) :
    OnlyResultChanged s (raise e (takeEntropy s)) := rfl

theorem done_RESULT_mem (s : State) : (done s).RESULT ∈ ([0x00, 0x05] : List Word) := List.mem_cons_self

theorem execValidate_only_result {s t : State} (ht : exec .validate s = .next t) :
    OnlyResultChanged s t := by
  obtain ⟨-, rfl⟩ | ⟨-, rfl⟩ := execValidate_cases ht
  · exact done_only_result s
  · exact raise_only_result _ s

/-- A command stops at a check, with `RESULT` its only effect, or passes its checks and ends with 0 or 5
(R163). -/
theorem exec_only_result_or_completes {i : Instr} {s t : State} (ht : exec i s = .next t) :
    OnlyResultChanged s t ∨ t.RESULT ∈ ([0x00, 0x05] : List Word) := by
  cases i with
  | init => exact .inr (execInit_cases ht ▸ done_RESULT_mem _)
  | nextBlock =>
    obtain ⟨-, rfl⟩ | ⟨-, rfl⟩ := execNextBlock_cases ht
    · exact .inr (done_RESULT_mem _)
    · exact .inl (raise_only_result _ s)
  | xorStream n =>
    obtain ⟨-, rfl⟩ | ⟨-, -, rfl⟩ | ⟨-, -, rfl⟩ := execXorStream_cases ht
    · exact .inl (raise_only_result _ s)
    · exact .inl (raise_only_result _ s)
    · exact .inr (done_RESULT_mem _)
  | derive len => exact .inr (execDerive_cases ht ▸ done_RESULT_mem _)
  | sealVault len =>
    obtain ⟨-, ⟨-, rfl⟩ | ⟨e, -, rfl⟩⟩ := execSeal_cases ht
    · exact .inl (raise_takeEntropy_only_result _ s)
    · exact .inr (by simp [sealImage_RESULT])
  | openVault len =>
    obtain ⟨-, rfl⟩ | ⟨-, rfl⟩ := execOpen_cases ht
    · exact .inl (raise_only_result _ s)
    · exact .inr (openImage_RESULT_mem len s)
  | validate => exact .inl (execValidate_only_result ht)

/-- Settles O38: none of the four codes is one that a command past its checks ends with. -/
theorem refusedCommandChangesOnlyResult : Obligations.RefusedCommandChangesOnlyResult := by
  rintro i s t ht (hcode | rfl)
  case inl =>
    have hdisjoint : ∀ c ∈ ([0x01, 0x03, 0x81, 0x82] : List Word), c ∉ ([0x00, 0x05] : List Word) := by
      simp
    exact (exec_only_result_or_completes ht).resolve_right (hdisjoint _ hcode)
  case inr => exact execValidate_only_result ht

/-! ### The idle step -/

/-- Settles O7: the step reads the queue first, and an empty one leaves it nothing to perform. -/
theorem idleBlockHoldsItsState : Obligations.IdleBlockHoldsItsState := by
  intro s hbus
  rw [step, hbus]

end Sys2Proof.Machine
end

section
/-! PROOFS. The reset and hazards family: the stream past the counter's carry, and SEAL's wait for entropy. -/

namespace Sys2Proof.Machine

/-! ### The counter's carry -/

/-- R109's closed form at the first carry: `S[13]` is one more (R105). -/
theorem counterState_13_carry {s : Vector Word 16} {m : Nat} (h : s[12].toNat + m = 2 ^ 32) :
    (counterState s m)[13] = s[13] + 1 := by
  rw [counterState_13, h, Nat.div_self (by decide), BitVec.ofNat_add, BitVec.ofNat_toNat,
    BitVec.setWidth_eq]
  rfl

/-- Below the counter stand constants and key words only (R106). -/
theorem initWord_below_counter (key : Vector Byte 32) (nonce nonce' : Vector Byte 12) (c c' : Word) {i : Nat}
    (h : i < 12) : initWord key nonce c i = initWord key nonce' c' i := by
  simp only [initWord, if_pos h]

/-- At its first carry a stream has the words INIT loads for the neighbouring nonce and counter 0 (R197). -/
theorem counterState_initWords_carry (key : Vector Byte 32) {nonce nonce' : Vector Byte 12} {c : Word} {m : Nat}
    (hm : c.toNat + m = 2 ^ 32) (h0 : nonceWord nonce' 0 = nonceWord nonce 0 + 1)
    (h1 : nonceWord nonce' 1 = nonceWord nonce 1) (h2 : nonceWord nonce' 2 = nonceWord nonce 2) :
    counterState (initWords key nonce c) m = initWords key nonce' 0 := by
  apply Vector.ext
  intro i hi
  obtain hlow | rfl | rfl | rfl | rfl : i < 12 ∨ i = 12 ∨ i = 13 ∨ i = 14 ∨ i = 15 := by omega
  · rw [counterState_other _ _ i hi (by omega) (by omega), initWords_get, initWords_get]
    exact initWord_below_counter key nonce nonce' c 0 hlow
  · rw [counterState_12, initWords_counter, initWords_counter, hm]
    rfl
  · rw [counterState_13_carry (by rw [initWords_counter, hm]), initWords_nonce key nonce c 0 (by decide),
      initWords_nonce key nonce' 0 0 (by decide), h0]
  · rw [counterState_other _ _ 14 hi (by decide) (by decide), initWords_nonce key nonce c 1 (by decide),
      initWords_nonce key nonce' 0 1 (by decide), h1]
  · rw [counterState_other _ _ 15 hi (by decide) (by decide), initWords_nonce key nonce c 2 (by decide),
      initWords_nonce key nonce' 0 2 (by decide), h2]

/-- Settles O18: the first `2^32 - c` advances reach the carry, at the neighbour's first words; `j` remain. -/
theorem wrappedStreamMeetsItsNeighbour : Obligations.WrappedStreamMeetsItsNeighbour := by
  intro key nonce nonce' c d j hd h0 h1 h2
  have hm : c.toNat + (2 ^ 32 - c.toNat) = 2 ^ 32 := Nat.add_sub_of_le c.isLt.le
  obtain rfl : d = j + (2 ^ 32 - c.toNat) := by omega
  rw [Function.iterate_add_apply, iterate_advance _ (2 ^ 32 - c.toNat),
    counterState_initWords_carry key hm h0 h1 h2]

/-! ### SEAL and the entropy source -/

/-- Settles O25: past the wait, either reply of the source gives SEAL its step. -/
theorem sealStepsExactlyWhenAnswered : Obligations.SealStepsExactlyWhenAnswered := by
  refine fun s len => ⟨execSeal_hangs len, fun hanswers => ?answers⟩
  cases he : entropyReply s with
  | none => exact ⟨_, execSeal_failed len hanswers he⟩
  | some e => exact ⟨_, execSeal_answered len hanswers he⟩

end Sys2Proof.Machine
end

section
/-! PROOFS. The listed words of 95_test_vectors.md: each decoded by its two fields (30_encoding.md R70 to R75). -/

namespace Sys2Proof.Machine

/-- R74 by the two fields of a word: no assigned opcode, or format Z with an `imm` that is not zero. -/
theorem illegal_iff_fields (w : Word) : (∃ why, decode w = .illegal why) ↔
    opField w ∉ ([0x01, 0x02, 0x03, 0x10, 0x20, 0x21, 0x22] : List Byte) ∨
      (opField w ∈ ([0x01, 0x02, 0x22] : List Byte) ∧ immField w ≠ 0) :=
  (no_row_selects_iff w).symm.trans (illegalWordWritesOnlyResult.1 w)

/-- Settles O5: a command's word has its opcode and its length in the two fields; the illegal ones carry an
`imm` above a format Z opcode, or no assigned opcode. -/
theorem listedWordsDecode : Obligations.ListedWordsDecode := by
  refine ⟨?init, ?nextBlock, ?xorStream5, ?xorStreamMax, ?derive33, ?seal7, ?open5, ?validate,
    ?initImm, ?nextBlockImm, ?validateImm, ?allZeros, ?allOnes⟩
  case init | nextBlock | xorStream5 | xorStreamMax | derive33 | seal7 | open5 | validate =>
    exact (decode_eq_command_iff _ _).mpr (by decide)
  case initImm | nextBlockImm | validateImm => exact (illegal_iff_fields _).mpr (.inr (by decide))
  case allZeros | allOnes => exact (illegal_iff_fields _).mpr (.inl (by decide))

end Sys2Proof.Machine
end
